-- ==== Sys2Proof/Word.lean ====
section
/-! DEFINITION. The two word types of QSPI-TC: the 32-bit register and request word, and the payload byte
(spec 00_scope.md R6, rows `REG_W` and `DR_ACC_W`). All values are unsigned (R7, R89). -/

namespace Sys2Proof

/-- A 32-bit word: the width of SR, DLR, CCR, AR and ABR accesses and of each request word (R6, R65). -/
abbrev Word := BitVec 32

/-- A byte: the width of a data-register access and of one payload byte (R6, R43). -/
abbrev Byte := BitVec 8

end Sys2Proof
end

