-- ==== Sys2Proof/Config.lean ====
section
/-! DEFINITION. What an implementation fixes and the block never changes: the types of the parameter records of
spec 00_scope.md R6, the setup interface's parameters (10_state.md R33), and the free values the environment
answers (20_memory.md R59). The parameter records are arguments that State
carries (`State.params`); their default NUMBERS stand in Machine/Params.lean. -/

namespace Sys2Proof.Config

/-- The position of the least significant bit of every CCR field (10_state.md R23). The spec keeps the layout a
configuration record (91_not_in_source.md N5, 92_eei_decisions.md D6). -/
structure CcrLayout where
  instruction : Nat
  imode : Nat
  admode : Nat
  adsize : Nat
  abmode : Nat
  absize : Nat
  dcyc : Nat
  dmode : Nat
  fmode : Nat
  sioo : Nat
  dhhc : Nat
  ddrm : Nat
  deriving DecidableEq, Repr

/-- The bit index of each flag of SR that the block tests (10_state.md R24). -/
structure SrLayout where
  busy : Nat
  ftf : Nat
  tcf : Nat
  deriving DecidableEq, Repr

/-- The numeric addresses of the downstream port (00_scope.md R6, 20_memory.md R50). `QSPI_BASE` "is required to be a multiple
of 4" and the offsets are multiples of 4 (R44): `AddressMap.aligned` (Safety.lean), a part of the invariant. -/
structure AddressMap where
  qspiBase : Nat
  offSr : Nat
  offDlr : Nat
  offCcr : Nat
  offAr : Nat
  offAbr : Nat
  offDr : Nat
  mapBase : Nat
  deriving DecidableEq, Repr

/-- The parameters of 00_scope.md R6 that the spec calls model arguments: the CCR field positions, the SR flag bits, the
addresses. -/
structure Params where
  ccr : CcrLayout
  sr : SrLayout
  addr : AddressMap
  deriving DecidableEq, Repr

/-- Clock phase and polarity mode of the setup interface (10_state.md R33). -/
inductive ClockMode where
  | mode0
  | mode3
  deriving DecidableEq, Repr, Inhabited

/-- Flash-bank mode of the setup interface (10_state.md R33). -/
inductive BankMode where
  | flash1
  | flash2
  | dual
  deriving DecidableEq, Repr, Inhabited

/-- The one-time configuration that the setup interface leaves in the peripheral (10_state.md R33,
70_reset_and_hazards.md R179). The block neither reads nor writes it; out-of-range values are not checked (R190). -/
structure Setup where
  clockPrescaler : Nat
  fifoThreshold : Nat
  sampleShift : Bool
  flashSizeExponent : Nat
  chipSelectHighTime : Nat
  clockMode : ClockMode
  bankMode : BankMode
  deriving DecidableEq, Repr, Inhabited

/-- FREE VALUE: what the peripheral stores for a FIFO threshold outside 1 to 32. The spec gives none: such a value is "not
checked by the core" (R33, R190; log 4). -/
opaque freeStoredThreshold : Nat → Nat

/-- The FIFO threshold as the peripheral stores it: "1–32, internally stored as value−1" (R33, R179). Outside that range, 0
included, the spec gives no value and the model takes a free one (DESIGN CHOICE, log 4). -/
def Setup.storedFifoThreshold (c : Setup) : Nat :=
  if 1 ≤ c.fifoThreshold ∧ c.fifoThreshold ≤ 32 then c.fifoThreshold - 1 else freeStoredThreshold c.fifoThreshold

/-- The setup parameters of this machine. OPEN in the spec (R6 row `FTHRES`, D35): no value is given, no body stands
here, and no rule of the block reads them (log 4). -/
opaque setup : Setup

/-- FREE VALUE: what the environment answers to the n-th read of SR when State lists no answer for it
(20_memory.md R59, "every rule holds for every answer"; log 3). -/
opaque freeSr : Nat → Word

/-- FREE VALUE: the byte the environment answers to the n-th read of DR when State lists no answer for it
(20_memory.md R59, 93_implementation_defined.md U15; log 3). -/
opaque freeDr : Nat → Byte

end Sys2Proof.Config
end

