-- ==== Sys2Proof/Syntax.lean ====
section
/-! DEFINITION. The syntax of QSPI-TC: the value sets of the source's data model (spec 10_state.md R11 to R20), the
abstract request (30_encoding.md R63), the request word (R65), the downstream access (20_memory.md R41), the operands of
the textual form (R79), and `Instr`, one constructor per row of opcode_table.json. -/

namespace Sys2Proof

/-- Number of parallel lines of a phase; `none` means the phase is absent (R9, R13, R64). -/
inductive LineWidth where
  | none
  | single
  | dual
  | quad
  deriving DecidableEq, Repr, Inhabited

/-- A phase is present exactly when its line width is not None (R64). -/
def LineWidth.present : LineWidth → Bool
  | .none => false
  | .single | .dual | .quad => true

/-- Byte width of an argument: the four fixed shapes (R83). -/
inductive ByteWidth where
  | w1
  | w2
  | w3
  | w4
  deriving DecidableEq, Repr, Inhabited

/-- The width in bytes, 1 to 4 (R83, R85). -/
def ByteWidth.bytes : ByteWidth → Nat
  | .w1 => 1
  | .w2 => 2
  | .w3 => 3
  | .w4 => 4

/-- DDR mode tri-state (R16). -/
inductive DdrMode where
  | disabled
  | enabled
  | enabledWithHold
  deriving DecidableEq, Repr, Inhabited

/-- Functional mode (R9, R91). `poll` is defined and reached by no request (R75, R91). -/
inductive FuncMode where
  | read
  | write
  | poll
  | mapped
  deriving DecidableEq, Repr, Inhabited

/-- Request kind, the value set of `D.OP` (R12). -/
inductive ReqKind where
  | cmd
  | read
  | write
  | map
  deriving DecidableEq, Repr, Inhabited

/-- ArgumentValue: a tagged union over the byte width, byte 0 first (40_argument_encoding.md R83). -/
inductive ArgumentValue where
  | b1 (b0 : Byte)
  | b2 (b0 b1 : Byte)
  | b3 (b0 b1 b2 : Byte)
  | b4 (b0 b1 b2 b3 : Byte)
  deriving DecidableEq, Repr

/-- An argument as a request carries it: its byte width and its canonical value (R14, R15, R70). -/
structure Argument where
  width : ByteWidth := .w1
  value : Word := 0
  deriving DecidableEq, Repr, Inhabited

/-- The Command shape of R63: optional instruction, address and alternate-bytes phases and the DDR mode. A phase whose
line width is None is absent, and its payload is carried and ignored (R64, R70). The defaults are those of R80. -/
structure Command where
  ilw : LineWidth := .none
  instr : Byte := 0
  adlw : LineWidth := .none
  addr : Argument := {}
  ablw : LineWidth := .none
  alt : Argument := {}
  ddr : DdrMode := .disabled
  deriving DecidableEq, Repr, Inhabited

/-- The IoCommand shape of R63: a Command with dummy cycles, data line width and the send-instruction-once flag. -/
structure IoCommand extends Command where
  dcyc : BitVec 5 := 0
  dlw : LineWidth := .none
  sioo : Bool := false
  deriving DecidableEq, Repr, Inhabited

/-- The 16-byte request word `W0 W1 W2 W3` (R65). -/
structure ReqWord where
  w0 : Word
  w1 : Word
  w2 : Word
  w3 : Word
  deriving DecidableEq, Repr, Inhabited

/-- The six downstream registers (R22). -/
inductive Reg where
  | sr
  | dlr
  | ccr
  | ar
  | abr
  | dr
  deriving DecidableEq, Repr, Inhabited

/-- Direction of a downstream access (R41). -/
inductive Dir where
  | read
  | write
  deriving DecidableEq, Repr, Inhabited

/-- The command part of one access on the downstream port: direction, register and number of bytes (R41). The port carries
register names; the numeric addresses are a parameter that no rule depends on (20_memory.md R50). -/
structure Access where
  dir : Dir
  reg : Reg
  bytes : Nat
  deriving DecidableEq, Repr, Inhabited

/-- The instructions: the four requests (opcode_table.json format REQ, R77) and the seven downstream access kinds that
the sequencer issues (format BUS, R78). -/
inductive Instr where
  /-- CMD, the source's `command(descriptor)` (R136). -/
  | cmd (c : Command)
  /-- READ, the source's `read(descriptor, buffer)` (R140). -/
  | read (io : IoCommand) (len : Word)
  /-- WRITE, the source's `write(descriptor, buffer)` (R145). -/
  | write (io : IoCommand) (len : Word)
  /-- MAP, the source's `memory_mapped(descriptor)` (R150). -/
  | map (io : IoCommand)
  /-- RD_SR: `RegRead(SR, 4)` and the test of its flags (R115, R122, R123, R125, R127). -/
  | rdSr
  /-- WR_DLR: `RegWrite(DLR, 4, LEN - 1)` (R117). -/
  | wrDlr
  /-- WR_ABR: `RegWrite(ABR, 4, abr(D))` (R118). -/
  | wrAbr
  /-- WR_CCR: `RegWrite(CCR, 4, ccr(D, fm(D.OP)))` (R119). -/
  | wrCcr
  /-- WR_AR: `RegWrite(AR, 4, ar(D))` (R120). -/
  | wrAr
  /-- RD_DR8: `RegRead(DR, 1)` and the store of the byte (R124). -/
  | rdDr8
  /-- WR_DR8: `RegWrite(DR, 1, BufRead(IDX))` (R126). -/
  | wrDr8
  deriving DecidableEq, Repr

/-- The two encodings of the hardware: a request word offered at the request port (R65), and an access on the
downstream port, "its second, outward encoding" (R78). -/
inductive Encoded where
  | request (w : ReqWord)
  | access (a : Access)
  deriving DecidableEq, Repr

/-- Why the decoder refuses. The first seven are the shape constraints of R72 in the rule's order. -/
inductive Reject where
  /-- `W0[23:22]` is not 00 (R72 item 1, R74). -/
  | reservedBits
  /-- `DDR` is the reserved code 11 (R72 item 2, R74). -/
  | ddrReserved
  /-- A CMD word with a data line width (R72 item 3). -/
  | cmdDataWidth
  /-- A CMD word with dummy cycles (R72 item 3). -/
  | cmdDummyCycles
  /-- A CMD word with the send-once flag (R72 item 3). -/
  | cmdSendOnce
  /-- A CMD word with a length (R72 item 3). -/
  | cmdLength
  /-- A MAP word with a length (R72 item 4). -/
  | mapLength
  /-- A byte sequence that is not 16 bytes long (R65). -/
  | wrongLength
  /-- An access that is none of the seven kinds (R78, R135). -/
  | noSuchAccess
  /-- A 4-byte access to a register at an address that is no multiple of 4: the block cannot issue one (R44). -/
  | misaligned
  deriving DecidableEq, Repr

/-- What the decoder answers: one instruction, or a refusal by name (R76). -/
inductive Decoded where
  | ok (i : Instr)
  | refused (r : Reject)
  deriving DecidableEq, Repr

/-- The instruction of an answer, if there is one. -/
def Decoded.instr? : Decoded → Option Instr
  | .ok i => some i
  | .refused _ => none

/-- One operand of the textual form (R79): `i=`, `a=`, `ab=`, `ddr=`, `dc=`, `d=`, `sioo`, `len=`. The bytes of `a=` and
`ab=` stand most significant first, as they are written. -/
inductive AsmOperand where
  | i (byte : Byte) (lw : LineWidth)
  | a (bytes : List Byte) (lw : LineWidth)
  | ab (bytes : List Byte) (lw : LineWidth)
  | ddr (mode : DdrMode)
  | dc (n : Nat)
  | d (lw : LineWidth)
  | sioo
  | len (n : Nat)
  deriving DecidableEq, Repr

end Sys2Proof
end

