-- ==== Sys2Proof/Machine/Bits.lean ====
section
/-! DEFINITION. Bit fields and byte order: `v[hi:lo]` of spec 00_scope.md R7, the placing of disjoint fields in a word
(41_register_compiler.md R103, 30_encoding.md R66) and little-endian bytes (20_memory.md R45, 30_encoding.md R65). -/

namespace Sys2Proof.Machine

/-- `zext_32(v) << pos`: one summand of the OR of R103. -/
def place {n : Nat} (v : BitVec n) (pos : Nat) : Word := v.setWidth 32 <<< pos

/-- `w[pos+n-1 : pos]` (R7). -/
def field (w : Word) (pos n : Nat) : BitVec n := w.extractLsb' pos n

/-- `w[pos]`, one bit (R7). -/
def bit (w : Word) (pos : Nat) : Bool := w.getLsbD pos

/-- A flag as a one-bit field. -/
def flagBit (b : Bool) : BitVec 1 := BitVec.ofBool b

/-- The four bytes of a word, lowest address first: little-endian (R45, R65; 92_eei_decisions.md D34; log 17). -/
def wordToBytes (w : Word) : List Byte := [field w 0 8, field w 8 8, field w 16 8, field w 24 8]

/-- `b3 ++ b2 ++ b1 ++ b0` as a 32-bit number (R84). -/
def wordOfBytes (b0 b1 b2 b3 : Byte) : Word := place b0 0 ||| place b1 8 ||| place b2 16 ||| place b3 24

end Sys2Proof.Machine
end

