-- ==== Sys2Proof/Machine/Operands.lean ====
section
/-! DEFINITION. Operand forms: the argument encoding of spec 40_argument_encoding.md (R83 to R87), and the numeric codes of
the request header (30_encoding.md R67 to R69) and of the CCR fields (41_register_compiler.md R94, R97, R98). -/

namespace Sys2Proof.Machine

/-- `arg_width`: the byte width the argument was built with, never inferred from its value (R85). -/
def argWidth : ArgumentValue → ByteWidth
  | .b1 _ => .w1
  | .b2 _ _ => .w2
  | .b3 _ _ _ => .w3
  | .b4 _ _ _ _ => .w4

/-- `arg_value` (the source's `to_u32`): little-endian zero-extension of the bytes present (R84, R46). -/
def argValue : ArgumentValue → Word
  | .b1 b0 => wordOfBytes b0 0 0 0
  | .b2 b0 b1 => wordOfBytes b0 b1 0 0
  | .b3 b0 b1 b2 => wordOfBytes b0 b1 b2 0
  | .b4 b0 b1 b2 b3 => wordOfBytes b0 b1 b2 b3

/-- The bytes of an argument, byte 0 first (R83). -/
def argBytes : ArgumentValue → List Byte
  | .b1 b0 => [b0]
  | .b2 b0 b1 => [b0, b1]
  | .b3 b0 b1 b2 => [b0, b1, b2]
  | .b4 b0 b1 b2 b3 => [b0, b1, b2, b3]

/-- `arg_from_u32`: the low `w` bytes of `v`; the rest are dropped and raise nothing (R87). -/
def argFromU32 (v : Word) : ByteWidth → ArgumentValue
  | .w1 => .b1 (field v 0 8)
  | .w2 => .b2 (field v 0 8) (field v 8 8)
  | .w3 => .b3 (field v 0 8) (field v 8 8) (field v 16 8)
  | .w4 => .b4 (field v 0 8) (field v 8 8) (field v 16 8) (field v 24 8)

/-- `2^(8w) - 1`: the mask that decode applies to an argument word (30_encoding.md R70). -/
def widthMask : ByteWidth → Word
  | .w1 => 0xFF
  | .w2 => 0xFFFF
  | .w3 => 0xFFFFFF
  | .w4 => 0xFFFFFFFF

/-- The argument of width `w` that a request word carries: bits above the width are dropped without any error (R70). -/
def maskedArgument (w : ByteWidth) (v : Word) : Argument := { width := w, value := v &&& widthMask w }

/-- The argument of a request as its canonical value and its width (R84, R85). -/
def argumentOf (a : ArgumentValue) : Argument := { width := argWidth a, value := argValue a }

/-- `size_code(w) = w - 1`, the CCR size code (R86). -/
def sizeCode : ByteWidth → BitVec 2
  | .w1 => 0
  | .w2 => 1
  | .w3 => 2
  | .w4 => 3

/-- `ADW1`, `ABW1`: "byte width minus 1" of the header (R66). -/
def widthField : ByteWidth → BitVec 2
  | .w1 => 0
  | .w2 => 1
  | .w3 => 2
  | .w4 => 3

/-- `D.ADW = ADW1 + 1` (R66): the 2-bit field cannot express an illegal width (R83). -/
def widthOfField (b : BitVec 2) : ByteWidth :=
  if b = 0 then .w1 else if b = 1 then .w2 else if b = 2 then .w3 else .w4

/-- Line-width code of the header (R68). -/
def lineCode : LineWidth → BitVec 2
  | .none => 0
  | .single => 1
  | .dual => 2
  | .quad => 3

/-- The line width a header code stands for (R68). -/
def lineOfCode (b : BitVec 2) : LineWidth :=
  if b = 0 then .none else if b = 1 then .single else if b = 2 then .dual else .quad

/-- DDR code of the header (R69). -/
def ddrCode : DdrMode → BitVec 2
  | .disabled => 0
  | .enabled => 1
  | .enabledWithHold => 2

/-- The DDR mode of a header code; 11 is reserved (R69, R74). -/
def ddrOfCode (b : BitVec 2) : Option DdrMode :=
  if b = 0 then some .disabled else if b = 1 then some .enabled else if b = 2 then some .enabledWithHold else none

/-- `OP` code of the header (R67). -/
def opCode : ReqKind → BitVec 2
  | .cmd => 0
  | .read => 1
  | .write => 2
  | .map => 3

/-- The request kind of an `OP` code: all four codes are used (R67). -/
def opOfCode (b : BitVec 2) : ReqKind :=
  if b = 0 then .cmd else if b = 1 then .read else if b = 2 then .write else .map

/-- `mode_code`: the CCR mode field of a phase, 00 "no phase" when absent (R93, R94). -/
def modeCode : LineWidth → BitVec 2
  | .none => 0
  | .single => 1
  | .dual => 2
  | .quad => 3

/-- The CCR data-direction code of a functional mode (R97). -/
def fmodeCode : FuncMode → BitVec 2
  | .write => 0
  | .read => 1
  | .poll => 2
  | .mapped => 3

/-- DDRM: set whenever the mode is not Disabled (R98). -/
def ddrEnableBit : DdrMode → Bool
  | .disabled => false
  | .enabled | .enabledWithHold => true

/-- DHHC: set only when the mode is EnabledWithHold (R98). -/
def ddrHoldBit : DdrMode → Bool
  | .disabled | .enabled => false
  | .enabledWithHold => true

end Sys2Proof.Machine
end

