-- ==== Sys2Proof/Machine/Params.lean ====
section
/-! DEFINITION. The default values of the parameter records of spec 00_scope.md R6. The spec marks every number here as
general knowledge (93_implementation_defined.md G1 to G3, G9) and as its own decision (D6, D7, D8); no rule's shape
depends on them (log 5). They are the arguments' values in State.reset; the step reads them from `State.params`. -/

namespace Sys2Proof.Machine

/-- CCR field positions (10_state.md R23; 92_eei_decisions.md D6). -/
def ccrLayout : Config.CcrLayout :=
  { instruction := 0, imode := 8, admode := 10, adsize := 12, abmode := 14, absize := 16, dcyc := 18, dmode := 24,
    fmode := 26, sioo := 28, dhhc := 30, ddrm := 31 }

/-- SR flag bit indices (10_state.md R24; D7). -/
def srLayout : Config.SrLayout := { busy := 5, ftf := 2, tcf := 1 }

/-- Register offsets, base, and start of the mapped window (R6, R22, R50, R51; D8). -/
def addressMap : Config.AddressMap :=
  { qspiBase := 0xA0001000, offSr := 0x08, offDlr := 0x10, offCcr := 0x14, offAr := 0x18, offAbr := 0x1C,
    offDr := 0x20, mapBase := 0x90000000 }

/-- The parameters at the spec's default values: what State.reset carries (log 5). -/
def defaultParams : Config.Params := { ccr := ccrLayout, sr := srLayout, addr := addressMap }

/-- `QSPI_BASE + OFF_r`, the address of register `r` on the downstream port, under an address map (R41, R50). -/
def regAddr (m : Config.AddressMap) : Reg → Nat
  | .sr => m.qspiBase + m.offSr
  | .dlr => m.qspiBase + m.offDlr
  | .ccr => m.qspiBase + m.offCcr
  | .ar => m.qspiBase + m.offAr
  | .abr => m.qspiBase + m.offAbr
  | .dr => m.qspiBase + m.offDr

/-- The register at an address, under an address map: the six of R22 and no other (R34). -/
def regOfAddr (m : Config.AddressMap) (a : Nat) : Option Reg :=
  [.sr, .dlr, .ccr, .ar, .abr, .dr].find? fun r => regAddr m r == a

end Sys2Proof.Machine
end

