-- ==== Sys2Proof/Machine/State.lean ====
section
/-! DEFINITION. The state of QSPI-TC and of the inputs a step takes (spec 10_state.md R10, 42_executor_sequencer.md R113),
as plain data, and its value after reset (R38). -/

namespace Sys2Proof.Machine

/-- The sequencer state, the block's program counter: 16 values (R29). -/
inductive Seq where
  | idle
  | busywait
  | lenprog
  | cfgAbr
  | cfgCcr
  | cfgAr
  | cmdWait
  | rdPoll
  | rdPop
  | wrPoll
  | wrPush
  | wrDrain
  | cmdComplete
  | dataComplete
  | mappedActive
  | faulted
  deriving DecidableEq, Repr, Inhabited

/-- The descriptor latch `D`, 13 fields (R11). -/
structure Latch where
  /-- `D.OP`, 2 bits: the request in flight (R12). -/
  op : ReqKind
  /-- `D.ILW`, 2 bits (R13). -/
  ilw : LineWidth
  /-- `D.INSTR`, 8 bits (R13). -/
  instr : Byte
  /-- `D.ADLW`, 2 bits (R14). -/
  adlw : LineWidth
  /-- `D.ADW`, 3 bits, 1 to 4 (R14). -/
  adw : ByteWidth
  /-- `D.ADDR`, 32 bits (R14). -/
  addr : Word
  /-- `D.ABLW`, 2 bits (R15). -/
  ablw : LineWidth
  /-- `D.ABW`, 3 bits, 1 to 4 (R15). -/
  abw : ByteWidth
  /-- `D.ALT`, 32 bits (R15). -/
  alt : Word
  /-- `D.DDR`, 2 bits, three values (R16). -/
  ddr : DdrMode
  /-- `D.DCYC`, 5 bits (R17). -/
  dcyc : BitVec 5
  /-- `D.DLW`, 2 bits (R18). -/
  dlw : LineWidth
  /-- `D.SIOO`, 1 bit (R19). -/
  sioo : Bool
  deriving DecidableEq, Repr

/-- The data of one downstream access: 4 bytes or 1 byte, "No other width is used" (R43). -/
inductive BusData where
  | word (v : Word)
  | byte (b : Byte)
  deriving DecidableEq, Repr

/-- One event of the trace: `Rd(r, n, value)` or `Wr(r, n, v)` (20_memory.md R42). -/
inductive Event where
  | rd (r : Reg) (v : BusData)
  | wr (r : Reg) (v : BusData)
  deriving DecidableEq, Repr

/-- The four registers of the peripheral that the block writes by 32-bit accesses (R22, R43). -/
inductive CfgReg where
  | dlr
  | abr
  | ccr
  | ar
  deriving DecidableEq, Repr

/-- Where the environment is taken to launch a request's transaction (41_register_compiler.md R109). -/
inductive LaunchPoint where
  | noExplicitLaunch
  | firstWriteDr
  | writeAr
  | writeCcr
  deriving DecidableEq, Repr

/-- The payload buffer BUF by byte index (20_memory.md R52): indexes strictly rising, no entry equal to what an unlisted
index reads as (`Memory.wf`, Machine/Ops.lean). -/
abbrev Memory := List Host.Cell

/-- One request offered at the request port (R113, R114): its word, and the payload buffer that the host names with it
(R63 `buf`, R71). `none`: the host names the buffer of the request before it, or the request has none (log 12). -/
structure Offer where
  word : ReqWord
  buf : Option (List Byte) := none
  deriving DecidableEq, Repr

/-- What the model holds of the peripheral: the registers the block writes (R22, R25 to R27, R48) and whether the configured
transaction has been launched (R35, R108, R109). The block reads none of it (R35). -/
structure Periph where
  dlr : Word
  abr : Word
  ccr : Word
  ar : Word
  launched : Bool
  deriving DecidableEq, Repr

/-- The state of a step (R113): the block's own registers (R10), the payload buffer, the peripheral's registers, the
environment's inputs as plain data, and the trace. -/
structure State where
  /-- ARGUMENT: the parameters that the spec calls model arguments, CCR layout, SR bits, addresses (00_scope.md R6; 10_state.md
  R37, "Not state, but parameters of the step relation"). No step changes them. -/
  params : Config.Params
  /-- The descriptor latch `D` (R11 to R19). -/
  d : Latch
  /-- `LEN`, 32 bits: payload length (R20). -/
  len : Word
  /-- `IDX`, 32 bits: index of the next payload byte (R20). -/
  idx : Word
  /-- `SEQ`: the sequencer state (R29). -/
  seq : Seq
  /-- `FAULT`, 1 bit (R31). -/
  fault : Bool
  /-- `CAUSE`, 2 bits (R31). -/
  cause : BitVec 2
  /-- The payload buffer BUF, the host's (20_memory.md R52). -/
  buf : Memory
  /-- The peripheral's registers that the block writes (R22). -/
  periph : Periph
  /-- INPUT: the requests the host offers, one after another, the first one standing at the request port (R30, R114). -/
  port : List Offer
  /-- INPUT: the reset input stands asserted (70_reset_and_hazards.md R172; log 14). -/
  resetIn : Bool
  /-- INPUT: the answers of the environment to the coming reads of SR, first one first (R59); when none is listed the
  answer is the free value `Config.freeSr srCount`. -/
  srScript : List Word
  /-- MODEL: the number of reads of SR made so far, the index of the free value (log 3). -/
  srCount : Nat
  /-- INPUT: the answers of the environment to the coming reads of DR (R59); then the free value
  `Config.freeDr drCount`. -/
  drScript : List Byte
  /-- MODEL: the number of reads of DR made so far, the index of the free value (log 3). -/
  drCount : Nat
  /-- The trace: every access since reset, in issue order, a model-level record (20_memory.md R42). -/
  trace : List Event
  deriving DecidableEq, Repr

/-- Why the machine stops with a fault. -/
inductive Fault where
  /-- Raised by `step` in `SEQ = FAULTED`: the block stands in the fault `ZeroLength`, no step applies (R129), and
  "`FAULTED` is a fault outcome, never a final state" (60_exceptions.md R163). Safe. -/
  | zeroLength
  /-- Raised by RD_DR8 and WR_DR8 when `IDX >= LEN`: BUF has no byte at that index (20_memory.md R52). No state that meets
  the invariant raises it. Safe. -/
  | bufIndexOutOfRange
  deriving DecidableEq, Repr

/-- Why `exec` gives no meaning. -/
inductive Refusal where
  /-- An instruction whose arm has no meaning yet. No arm raises it. Safe. -/
  | notModelled (mnemonic : String)
  /-- Raised by an access kind run in a sequencer state whose rule does not issue it: "anything not listed does not happen"
  (R130, R78). `step` never runs one there. Safe. -/
  | notIssuedHere (seq : Seq)
  deriving DecidableEq, Repr

/-- The value the model gives the latch at reset. The spec gives none, "holds no value until the first acceptance writes
it" (R38); no rule reads it before (R39). DESIGN CHOICE, log 1. -/
def Latch.reset : Latch :=
  { op := .cmd, ilw := .none, instr := 0, adlw := .none, adw := .w1, addr := 0, ablw := .none, abw := .w1, alt := 0,
    ddr := .disabled, dcyc := 0, dlw := .none, sioo := false }

/-- The value the model gives the peripheral's registers at the start. The spec gives none (R23, R38). PRESUMED, log 2. -/
def Periph.reset : Periph := { dlr := 0, abr := 0, ccr := 0, ar := 0, launched := false }

/-- The machine right after reset (R38, R173): `SEQ = IDLE`, `FAULT`, `CAUSE`, `LEN`, `IDX` zero, trace empty; no request
offered, no answer listed, a buffer with nothing listed (log 6, 7), and the parameters at the spec's defaults (log 5). -/
def State.reset : State :=
  { params := defaultParams, d := Latch.reset, len := 0, idx := 0, seq := .idle, fault := false, cause := 0, buf := [],
    periph := Periph.reset, port := [], resetIn := false, srScript := [], srCount := 0, drScript := [], drCount := 0,
    trace := [] }

end Sys2Proof.Machine
end

