-- ==== Sys2Proof/Machine/Compiler.lean ====
section
/-! DEFINITION. The register configuration compiler, spec 41_register_compiler.md: pure functions from the descriptor latch
to the values of the downstream registers (R90 to R106), and the launch point (R109). -/

namespace Sys2Proof.Machine

/-- Functional mode of a request (R91). No request gives Poll. -/
def fm : ReqKind → FuncMode
  | .cmd => .write
  | .read => .read
  | .write => .write
  | .map => .mapped

/-- INSTRUCTION field: the byte when the phase is present, else 0 (R96). -/
def instructionField (d : Latch) : Byte := if d.ilw.present then d.instr else 0

/-- ADSIZE field: from the byte width alone, 00 for an absent phase (R95). -/
def adsizeField (d : Latch) : BitVec 2 := if d.adlw.present then sizeCode d.adw else 0

/-- ABSIZE field (R95). -/
def absizeField (d : Latch) : BitVec 2 := if d.ablw.present then sizeCode d.abw else 0

/-- `ccr(D, fm)` under a layout of the CCR fields (R103; 92_eei_decisions.md D6 keeps the layout open). Bits that belong to no
field are 0 (R102). -/
def ccr (l : Config.CcrLayout) (d : Latch) (m : FuncMode) : Word :=
  place (instructionField d) l.instruction ||| place (modeCode d.ilw) l.imode ||| place (modeCode d.adlw) l.admode |||
    place (adsizeField d) l.adsize ||| place (modeCode d.ablw) l.abmode ||| place (absizeField d) l.absize |||
    place d.dcyc l.dcyc ||| place (modeCode d.dlw) l.dmode ||| place (fmodeCode m) l.fmode |||
    place (flagBit d.sioo) l.sioo ||| place (flagBit (ddrHoldBit d.ddr)) l.dhhc |||
    place (flagBit (ddrEnableBit d.ddr)) l.ddrm

/-- `abr(D)`: `D.ALT` when the phase is present, else 0, "to clear any stale value" (R104). -/
def abr (d : Latch) : Word := if d.ablw.present then d.alt else 0

/-- `ar(D)`: `D.ADDR` when the phase is present, else 0 (R105). -/
def ar (d : Latch) : Word := if d.adlw.present then d.addr else 0

/-- `dlr(LEN) = LEN - 1`, defined for `LEN >= 1` only; LENPROG never evaluates it at 0 (R106, R117). -/
def dlr (len : Word) : Word := len - 1

/-- `launch_point(D)` (R109): the source's rule R108, with the spec's correction for a READ (90_conflicts.md C1). -/
def launchPoint (d : Latch) : LaunchPoint :=
  if fm d.op = .mapped ∨ fm d.op = .poll then .noExplicitLaunch
  else if fm d.op = .write ∧ d.dlw.present then .firstWriteDr
  else if d.adlw.present then .writeAr
  else .writeCcr

/-- The payload length the peripheral expects: DLR "holds count-minus-one" (R25, R48). -/
def Periph.expectedLength (p : Periph) : Nat := p.dlr.toNat + 1

/-- The peripheral is in memory-mapped mode, "until reconfigured" (R35, R128, R150). The spec does not say at which access the
mode begins and ends (R152, R188): that it follows CCR's data-direction field, and so begins with MAP's CCR write and ends
with the next request's, is the model's reading (DESIGN CHOICE, log 21). No step reads it. -/
def Periph.mapped (l : Config.CcrLayout) (p : Periph) : Bool := field p.ccr l.fmode 2 = fmodeCode .mapped

end Sys2Proof.Machine
end

