-- ==== Sys2Proof/Machine/Flags.lean ====
section
/-! DEFINITION. Flags: the three SR flags the block samples (spec 10_state.md R24, R32) at the bit indices of a given SR
layout, the classes of sequencer states (R30, R128, R132) and the host-visible status (R32). The block has no condition codes of its own (R32). -/

namespace Sys2Proof.Machine

/-- BUSY of an SR value (R24). -/
def srBusy (l : Config.SrLayout) (v : Word) : Bool := bit v l.busy

/-- FTF, the FIFO-threshold flag, of an SR value (R24). -/
def srFtf (l : Config.SrLayout) (v : Word) : Bool := bit v l.ftf

/-- TCF, the transfer-complete flag, of an SR value (R24). -/
def srTcf (l : Config.SrLayout) (v : Word) : Bool := bit v l.tcf

/-- The accepting states (R30). -/
def Seq.accepting : Seq → Bool
  | .idle | .cmdComplete | .dataComplete | .mappedActive => true
  | .busywait | .lenprog | .cfgAbr | .cfgCcr | .cfgAr | .cmdWait | .rdPoll | .rdPop | .wrPoll | .wrPush | .wrDrain
  | .faulted => false

/-- The terminal states: the accepting states but IDLE (R128). -/
def Seq.terminal : Seq → Bool
  | .cmdComplete | .dataComplete | .mappedActive => true
  | .idle | .busywait | .lenprog | .cfgAbr | .cfgCcr | .cfgAr | .cmdWait | .rdPoll | .rdPop | .wrPoll | .wrPush
  | .wrDrain | .faulted => false

/-- A request is in flight: it is accepted and has reached neither a terminal state nor FAULTED (R30). -/
def Seq.inFlight : Seq → Bool
  | .busywait | .lenprog | .cfgAbr | .cfgCcr | .cfgAr | .cmdWait | .rdPoll | .rdPop | .wrPoll | .wrPush
  | .wrDrain => true
  | .idle | .cmdComplete | .dataComplete | .mappedActive | .faulted => false

/-- The flag test that ends the poll of a polling state (R115, R122, R123, R125, R127); `none` where the state does not
poll. -/
def pollTest (l : Config.SrLayout) : Seq → Option (Word → Bool)
  | .busywait => some (fun v => !srBusy l v)
  | .cmdWait => some (srTcf l)
  | .rdPoll => some (fun v => srFtf l v || srTcf l v)
  | .wrPoll => some (srFtf l)
  | .wrDrain => some (srTcf l)
  | .idle | .lenprog | .cfgAbr | .cfgCcr | .cfgAr | .rdPop | .wrPush | .cmdComplete | .dataComplete | .mappedActive
  | .faulted => none

/-- The five polling states (R132). -/
def Seq.polling : Seq → Bool
  | .busywait | .cmdWait | .rdPoll | .wrPoll | .wrDrain => true
  | .idle | .lenprog | .cfgAbr | .cfgCcr | .cfgAr | .rdPop | .wrPush | .cmdComplete | .dataComplete | .mappedActive
  | .faulted => false

/-- Whether a poll in state `q` ends on the SR value `v`. -/
def pollEnds (l : Config.SrLayout) (q : Seq) (v : Word) : Bool :=
  match pollTest l q with
  | some t => t v
  | none => false

/-- The host-visible status of the block, a function of `SEQ` (R32). `ready`: IDLE, where no request has yet run (R128;
log 18). -/
inductive Status where
  | ready
  | busy
  | done
  | fault
  deriving DecidableEq, Repr

/-- Busy when a request is in flight, done in a terminal state, fault in FAULTED (R32). -/
def Seq.status : Seq → Status
  | .idle => .ready
  | .busywait | .lenprog | .cfgAbr | .cfgCcr | .cfgAr | .cmdWait | .rdPoll | .rdPop | .wrPoll | .wrPush
  | .wrDrain => .busy
  | .cmdComplete | .dataComplete | .mappedActive => .done
  | .faulted => .fault

end Sys2Proof.Machine
end

