-- ==== Sys2Proof/Machine/Ops.lean ====
section
/-! DEFINITION. The named operations over the state: the payload buffer (spec 20_memory.md R52), the downstream port (R41,
R42, R48, R59), acceptance (42_executor_sequencer.md R114), fault entry (60_exceptions.md R155, R161) and, beside it, the
only way back, reset (R162, 70_reset_and_hazards.md R173). -/

namespace Sys2Proof.Machine

/-! ### The payload buffer -/

/-- What an index that the buffer does not list reads as: 0x00. DESIGN CHOICE, log 6. -/
def Memory.blank : Byte := 0

/-- One byte of the buffer. -/
def Memory.read : Memory → Nat → Byte
  | [], _ => Memory.blank
  | (k, c) :: m, a => if k = a then c else Memory.read m a

/-- An entry in front of a list, left out when it equals what an unlisted index reads as. -/
def Memory.cons (a : Nat) (b : Byte) (m : Memory) : Memory := if b = Memory.blank then m else (a, b) :: m

/-- Replace the byte at index `a`, keeping the canonical form. -/
def Memory.write : Memory → Nat → Byte → Memory
  | [], a, b => Memory.cons a b []
  | (k, c) :: m, a, b =>
    if a < k then Memory.cons a b ((k, c) :: m)
    else if a = k then Memory.cons a b m
    else (k, c) :: Memory.write m a b

/-- Canonical form from index `lo` on: strictly rising indexes, no entry equal to what an unlisted index reads as. -/
def Memory.wfFrom : Nat → Memory → Bool
  | _, [] => true
  | lo, (k, c) :: m => decide (lo ≤ k) && decide (c ≠ Memory.blank) && Memory.wfFrom (k + 1) m

/-- The canonical form. -/
def Memory.wf (m : Memory) : Bool := Memory.wfFrom 0 m

/-- The buffer that holds the given bytes from index `i` on. -/
def Memory.ofBytesFrom : Nat → List Byte → Memory
  | _, [] => []
  | i, b :: bs => Memory.cons i b (Memory.ofBytesFrom (i + 1) bs)

/-- The buffer whose byte `i` is the `i`-th of the list (R47). -/
def Memory.ofBytes (bs : List Byte) : Memory := Memory.ofBytesFrom 0 bs

/-- `BufRead(i)`: defined only for `0 <= i < LEN` (R52). -/
def State.bufRead (i : Word) (s : State) : Option Byte :=
  if i.toNat < s.len.toNat then some (Memory.read s.buf i.toNat) else none

/-- `BufWrite(i, b)`: defined only for `0 <= i < LEN` (R52). -/
def State.bufWrite (i : Word) (b : Byte) (s : State) : Option State :=
  if i.toNat < s.len.toNat then some { s with buf := Memory.write s.buf i.toNat b } else none

/-! ### The downstream port -/

/-- The register a configuration write reaches (R22). -/
def CfgReg.reg : CfgReg → Reg
  | .dlr => .dlr
  | .abr => .abr
  | .ccr => .ccr
  | .ar => .ar

/-- Append an event to the trace (R42). -/
def State.emit (e : Event) (s : State) : State := { s with trace := s.trace ++ [e] }

/-- What the environment answers to the (n+1)-th coming read of SR: the listed answer, else a free value (R59). -/
def State.srAnswerAt (s : State) (n : Nat) : Word := (s.srScript[n]?).getD (Config.freeSr (s.srCount + n))

/-- What the environment answers to the (n+1)-th coming read of DR (R59, U15). -/
def State.drAnswerAt (s : State) (n : Nat) : Byte := (s.drScript[n]?).getD (Config.freeDr (s.drCount + n))

/-- The value of `RegRead(SR, 4)` in this state (R41, R59). -/
def State.srAnswer (s : State) : Word := s.srAnswerAt 0

/-- The value of `RegRead(DR, 1)` in this state (R41, R59). -/
def State.drAnswer (s : State) : Byte := s.drAnswerAt 0

/-- The state after `RegRead(SR, 4)`: its event is in the trace and its answer is used up. SR reads have no side effect on
the peripheral (R48). -/
def State.afterSrRead (s : State) : State :=
  { s.emit (.rd .sr (.word s.srAnswer)) with srScript := s.srScript.tail, srCount := s.srCount + 1 }

/-- The state after `RegRead(DR, 1)`: the byte is removed from the peripheral's buffer (R48). -/
def State.afterDrRead (s : State) : State :=
  { s.emit (.rd .dr (.byte s.drAnswer)) with drScript := s.drScript.tail, drCount := s.drCount + 1 }

/-- The effect of `RegWrite(r, 4, v)` on the peripheral (R48): the register is replaced. Writing CCR begins a newly
configured transaction, which that write launches or not; writing AR may launch it (R108, R109; log 8). -/
def Periph.write (d : Latch) (r : CfgReg) (v : Word) (p : Periph) : Periph :=
  match r with
  | .dlr => { p with dlr := v }
  | .abr => { p with abr := v }
  | .ccr => { p with ccr := v, launched := decide (launchPoint d = .writeCcr) }
  | .ar => { p with ar := v, launched := p.launched || decide (launchPoint d = .writeAr) }

/-- `RegWrite(r, 4, v)` for a configuration register (R41, R48, R49). -/
def State.regWrite (r : CfgReg) (v : Word) (s : State) : State :=
  { s.emit (.wr r.reg (.word v)) with periph := Periph.write s.d r v s.periph }

/-- A configuration write and the move to the next sequencer state (R117 to R120). -/
def State.configWrite (r : CfgReg) (v : Word) (next : Seq) (s : State) : State := { s.regWrite r v with seq := next }

/-- `RegWrite(DR, 1, b)`: one byte more in the peripheral's buffer; the first launches a transaction with a data phase (R48,
R109). -/
def State.regWriteDr (b : Byte) (s : State) : State :=
  { s.emit (.wr .dr (.byte b)) with
    periph := { s.periph with launched := s.periph.launched || decide (launchPoint s.d = .firstWriteDr) } }

/-! ### Steps shared by several instructions -/

/-- One poll iteration: one read of SR, then the test of the state's flags on that one value, in one step (R134); `next` is
where the poll goes when it ends, else `SEQ` stays. -/
def State.poll (next : Seq) (s : State) : State :=
  { s.afterSrRead with seq := if pollEnds s.params.sr s.seq s.srAnswer then next else s.seq }

/-- Dispatch after the busy-wait, on `D.OP` alone (R116). -/
def afterBusy : ReqKind → Seq
  | .read | .write => .lenprog
  | .cmd | .map => .cfgAbr

/-- Dispatch after configuring, on `D.OP` alone (R120, R121). -/
def afterConfig : ReqKind → Seq
  | .cmd => .cmdWait
  | .read => .rdPoll
  | .write => .wrPoll
  | .map => .mappedActive

/-- `IDX <- IDX + 1`, then `done` if the new `IDX` is `LEN`, else `more` (R124, R126). -/
def State.advance (more done : Seq) (s : State) : State :=
  { s with idx := s.idx + 1, seq := if s.idx + 1 = s.len then done else more }

/-- The latch values of a request of the Command shape: `D.DCYC`, `D.DLW`, `D.SIOO` are 0, None, 0 (R92). -/
def latchCommand (op : ReqKind) (c : Command) : Latch :=
  { op := op, ilw := c.ilw, instr := c.instr, adlw := c.adlw, adw := c.addr.width, addr := c.addr.value,
    ablw := c.ablw, abw := c.alt.width, alt := c.alt.value, ddr := c.ddr, dcyc := 0, dlw := .none, sioo := false }

/-- The latch values of a request of the IoCommand shape (R66, R70). -/
def latchIoCommand (op : ReqKind) (io : IoCommand) : Latch :=
  { latchCommand op io.toCommand with dcyc := io.dcyc, dlw := io.dlw, sioo := io.sioo }

/-- ACCEPT (R114): the latch, `LEN` and `IDX` are written together and `SEQ` goes to BUSYWAIT. -/
def State.accept (d : Latch) (len : Word) (s : State) : State :=
  { s with d := d, len := len, idx := 0, seq := .busywait }

/-- A request at the port: accepted in an accepting state; in every other state it "waits, unaccepted, without any effect
on the block" (R30). -/
def State.offered (d : Latch) (len : Word) (s : State) : State :=
  if s.seq.accepting then s.accept d len else s

/-! ### The fault, and reset -/

/-- `CAUSE` of `ZeroLength` (R31, R155). -/
def causeZeroLength : BitVec 2 := 1

/-- Fault entry: `FAULT <- 1; CAUSE <- cause; SEQ <- FAULTED`. Nothing is saved, no access is made, the latch keeps its
values (R155, R156, R161). -/
def State.takeFault (cause : BitVec 2) (s : State) : State :=
  { s with fault := true, cause := cause, seq := .faulted }

/-- The effect of the reset input, the only way out of FAULTED: the block's state takes its reset values and the trace is
empty; no access is made and BUF, the peripheral, and what the host offers stay (R173, R174, R175; log 14). -/
def State.applyReset (s : State) : State :=
  { s with d := Latch.reset, len := 0, idx := 0, seq := .idle, fault := false, cause := 0, resetIn := false,
           trace := [] }

end Sys2Proof.Machine
end

