-- ==== Sys2Proof/Machine/Access.lean ====
section
/-! DEFINITION. The seven downstream access kinds (spec 30_encoding.md R78), each with the sequencer step that issues it
(42_executor_sequencer.md R115 to R127). In a sequencer state whose rule does not issue the access it "does not happen"
(R130) and the meaning refuses by the name `notIssuedHere`; `step` never runs it there. -/

namespace Sys2Proof.Machine

/-- RD_SR: the poll of the current state (BUSYWAIT R115, CMD_WAIT R122, RD_POLL R123, WR_POLL R125, WR_DRAIN R127). -/
def execRdSr (s : State) : Host.Outcome State Fault Refusal :=
  match s.seq with
  | .busywait => .next (s.poll (afterBusy s.d.op))
  | .cmdWait => .next (s.poll .cmdComplete)
  | .rdPoll => .next (s.poll .rdPop)
  | .wrPoll => .next (s.poll .wrPush)
  | .wrDrain => .next (s.poll .dataComplete)
  | .idle | .lenprog | .cfgAbr | .cfgCcr | .cfgAr | .rdPop | .wrPush | .cmdComplete | .dataComplete | .mappedActive
  | .faulted => .refused (.notIssuedHere s.seq)

/-- WR_DLR in LENPROG (R117): a zero length takes the fault `ZeroLength` and makes no access; else DLR gets `LEN - 1`. -/
def execWrDlr (s : State) : Host.Outcome State Fault Refusal :=
  if s.seq = .lenprog then
    if s.len = 0 then .next (s.takeFault causeZeroLength)
    else .next (s.configWrite .dlr (dlr s.len) .cfgAbr)
  else .refused (.notIssuedHere s.seq)

/-- WR_ABR in CFG_ABR (R118). -/
def execWrAbr (s : State) : Host.Outcome State Fault Refusal :=
  if s.seq = .cfgAbr then .next (s.configWrite .abr (abr s.d) .cfgCcr)
  else .refused (.notIssuedHere s.seq)

/-- WR_CCR in CFG_CCR (R119): one write carries all fields. -/
def execWrCcr (s : State) : Host.Outcome State Fault Refusal :=
  if s.seq = .cfgCcr then .next (s.configWrite .ccr (ccr s.params.ccr s.d (fm s.d.op)) .cfgAr)
  else .refused (.notIssuedHere s.seq)

/-- WR_AR in CFG_AR (R120), then the dispatch on `D.OP` (R121). -/
def execWrAr (s : State) : Host.Outcome State Fault Refusal :=
  if s.seq = .cfgAr then .next (s.configWrite .ar (ar s.d) (afterConfig s.d.op))
  else .refused (.notIssuedHere s.seq)

/-- RD_DR8 in RD_POP (R124): the byte goes to `BUF[IDX]`, whatever it is. -/
def execRdDr8 (s : State) : Host.Outcome State Fault Refusal :=
  if s.seq = .rdPop then
    match s.afterDrRead.bufWrite s.idx s.drAnswer with
    | some t => .next (t.advance .rdPoll .dataComplete)
    | none => .fault .bufIndexOutOfRange
  else .refused (.notIssuedHere s.seq)

/-- WR_DR8 in WR_PUSH (R126): `BUF[IDX]` goes to the data register. -/
def execWrDr8 (s : State) : Host.Outcome State Fault Refusal :=
  if s.seq = .wrPush then
    match s.bufRead s.idx with
    | some b => .next ((s.regWriteDr b).advance .wrPoll .wrDrain)
    | none => .fault .bufIndexOutOfRange
  else .refused (.notIssuedHere s.seq)

end Sys2Proof.Machine
end

