-- ==== Sys2Proof/Machine/Request.lean ====
section
/-! DEFINITION. The four requests. What an instruction of this family does in its own step is ACCEPT (spec
42_executor_sequencer.md R114): it fills the latch; the sequencer then issues the access kinds of Machine/Access.lean until
a terminal state. The whole run of a request is stated in Certificates/Slice0/Obligations.lean. -/

namespace Sys2Proof.Machine

/-- CMD (43_op_command.md R136): `D <- decode(W); LEN <- 0; IDX <- 0`. -/
def execCmd (c : Command) (s : State) : Host.Outcome State Fault Refusal :=
  .next (s.offered (latchCommand .cmd c) 0)

/-- READ (44_op_read.md R140): `D <- decode(W); LEN <- W3; IDX <- 0`; a zero length is not checked here (R114). -/
def execRead (io : IoCommand) (len : Word) (s : State) : Host.Outcome State Fault Refusal :=
  .next (s.offered (latchIoCommand .read io) len)

/-- WRITE (45_op_write.md R145): `D <- decode(W); LEN <- W3; IDX <- 0`; a zero length is not checked here (R114). -/
def execWrite (io : IoCommand) (len : Word) (s : State) : Host.Outcome State Fault Refusal :=
  .next (s.offered (latchIoCommand .write io) len)

/-- MAP (46_op_mapped.md R150): `D <- decode(W); LEN <- 0; IDX <- 0`. -/
def execMap (io : IoCommand) (s : State) : Host.Outcome State Fault Refusal :=
  .next (s.offered (latchIoCommand .map io) 0)

end Sys2Proof.Machine
end

