-- ==== Sys2Proof/Machine/Dispatch.lean ====
section
/-! DEFINITION. One arm per instruction. -/

namespace Sys2Proof.Machine

def exec (i : Instr) (s : State) : Host.Outcome State Fault Refusal :=
  match i with
  | .cmd c => Sys2Proof.Machine.execCmd c s
  | .read io len => Sys2Proof.Machine.execRead io len s
  | .write io len => Sys2Proof.Machine.execWrite io len s
  | .map io => Sys2Proof.Machine.execMap io s
  | .rdSr => Sys2Proof.Machine.execRdSr s
  | .wrDlr => Sys2Proof.Machine.execWrDlr s
  | .wrAbr => Sys2Proof.Machine.execWrAbr s
  | .wrCcr => Sys2Proof.Machine.execWrCcr s
  | .wrAr => Sys2Proof.Machine.execWrAr s
  | .rdDr8 => Sys2Proof.Machine.execRdDr8 s
  | .wrDr8 => Sys2Proof.Machine.execWrDr8 s

end Sys2Proof.Machine
end

