-- ==== Sys2Proof/WellFormed.lean ====
section
/-! DEFINITION. Which instruction terms are well formed. The types already hold the value sets of spec 10_state.md
(widths, tri-states, the 5-bit dummy count, the two descriptor shapes); what is left to check is that an argument's
canonical value fits its byte width, "`D.ADDR < 2^(8*D.ADW)` always holds" (R14, R15, R84). The shape constraints R72 of
a request WORD are checks of the decoder (Decode.lean). -/

namespace Sys2Proof

/-- The canonical value lies below `2^(8w)` (R14, R84). -/
def Argument.wf (a : Argument) : Bool := decide (a.value.toNat < 2 ^ (8 * a.width.bytes))

/-- Both arguments of a Command fit their widths (R14, R15). -/
def Command.wf (c : Command) : Bool := c.addr.wf && c.alt.wf

/-- A request is well formed when its arguments fit their widths; an access kind has no operand to check. -/
def Instr.wf : Instr → Bool
  | .cmd c => c.wf
  | .read io _ => io.toCommand.wf
  | .write io _ => io.toCommand.wf
  | .map io => io.toCommand.wf
  | .rdSr | .wrDlr | .wrAbr | .wrCcr | .wrAr | .rdDr8 | .wrDr8 => true

end Sys2Proof
end

