-- ==== Sys2Proof/Decode.lean ====
section
/-! DEFINITION. The decoder and the encoder. A request word decodes by spec 30_encoding.md R66 to R76, total on 128 bits; a
downstream access decodes by the access-kind table R78, by register name or by numeric address. The encoder is written from the
same tables. -/

namespace Sys2Proof

open Sys2Proof.Machine

/-- The Command fields of a header and its argument words (R66, R68, R70), given the DDR mode. -/
def decodeCommand (w : ReqWord) (ddr : DdrMode) : Command :=
  { ilw := lineOfCode (field w.w0 4 2)
    instr := field w.w0 24 8
    adlw := lineOfCode (field w.w0 6 2)
    addr := maskedArgument (widthOfField (field w.w0 12 2)) w.w1
    ablw := lineOfCode (field w.w0 8 2)
    alt := maskedArgument (widthOfField (field w.w0 14 2)) w.w2
    ddr := ddr }

/-- The IoCommand fields of a header (R66): the Command fields with `DCYC`, `DLW` and `SIOO`. -/
def decodeIoCommand (w : ReqWord) (ddr : DdrMode) : IoCommand :=
  { decodeCommand w ddr with
    dcyc := field w.w0 16 5
    dlw := lineOfCode (field w.w0 10 2)
    sioo := bit w.w0 21 }

/-- The request of kind CMD, if its shape constraints hold (R72 item 3). -/
def decodeCmd (w : ReqWord) (ddr : DdrMode) : Decoded :=
  if lineOfCode (field w.w0 10 2) ≠ .none then .refused .cmdDataWidth
  else if field w.w0 16 5 ≠ 0 then .refused .cmdDummyCycles
  else if bit w.w0 21 then .refused .cmdSendOnce
  else if w.w3 ≠ 0 then .refused .cmdLength
  else .ok (.cmd (decodeCommand w ddr))

/-- `decode(W0, W1, W2, W3)`: checks R72 and yields the request, or refuses by name (R73, R76). -/
def decodeRequest (w : ReqWord) : Decoded :=
  if field w.w0 22 2 ≠ 0 then .refused .reservedBits
  else
    match ddrOfCode (field w.w0 2 2) with
    | none => .refused .ddrReserved
    | some ddr =>
      match opOfCode (field w.w0 0 2) with
      | .cmd => decodeCmd w ddr
      | .read => .ok (.read (decodeIoCommand w ddr) w.w3)
      | .write => .ok (.write (decodeIoCommand w ddr) w.w3)
      | .map => if w.w3 ≠ 0 then .refused .mapLength else .ok (.map (decodeIoCommand w ddr))

/-- The access kind of an access on the downstream port, if it is one of the seven (R78, R43, R135). -/
def decodeAccess (a : Access) : Decoded :=
  if a = ⟨.read, .sr, 4⟩ then .ok .rdSr
  else if a = ⟨.write, .dlr, 4⟩ then .ok .wrDlr
  else if a = ⟨.write, .abr, 4⟩ then .ok .wrAbr
  else if a = ⟨.write, .ccr, 4⟩ then .ok .wrCcr
  else if a = ⟨.write, .ar, 4⟩ then .ok .wrAr
  else if a = ⟨.read, .dr, 1⟩ then .ok .rdDr8
  else if a = ⟨.write, .dr, 1⟩ then .ok .wrDr8
  else .refused .noSuchAccess

/-- The access kind of an access by its numeric address, under an address map (R41, R50, R34). A 4-byte access at an address
that is no multiple of 4 is none (R44). -/
def decodeBus (m : Config.AddressMap) (d : Dir) (addr bytes : Nat) : Decoded :=
  match regOfAddr m addr with
  | some r => if bytes = 4 ∧ addr % 4 ≠ 0 then .refused .misaligned else decodeAccess ⟨d, r, bytes⟩
  | none => .refused .noSuchAccess

/-- The decoder over both encodings, total. -/
def decode : Encoded → Decoded
  | .request w => decodeRequest w
  | .access a => decodeAccess a

/-- A request held in byte-addressed memory: sixteen bytes, `W0` lowest, each word little-endian (R65). Every other
length is refused (R65, R82: the length is always 16 bytes). -/
def decodeBytes : List Byte → Decoded
  | [a0, a1, a2, a3, b0, b1, b2, b3, c0, c1, c2, c3, d0, d1, d2, d3] =>
    decodeRequest
      { w0 := wordOfBytes a0 a1 a2 a3, w1 := wordOfBytes b0 b1 b2 b3, w2 := wordOfBytes c0 c1 c2 c3,
        w3 := wordOfBytes d0 d1 d2 d3 }
  | _ => .refused .wrongLength

/-- The sixteen bytes of a request word in memory (R65). -/
def reqWordBytes (w : ReqWord) : List Byte :=
  wordToBytes w.w0 ++ wordToBytes w.w1 ++ wordToBytes w.w2 ++ wordToBytes w.w3

/-- Header `W0` of a request (R66), the reserved bits 23:22 zero. -/
def encodeHeader (op : ReqKind) (c : Command) (dcyc : BitVec 5) (dlw : LineWidth) (sioo : Bool) : Word :=
  place (opCode op) 0 ||| place (ddrCode c.ddr) 2 ||| place (lineCode c.ilw) 4 ||| place (lineCode c.adlw) 6 |||
    place (lineCode c.ablw) 8 ||| place (lineCode dlw) 10 ||| place (widthField c.addr.width) 12 |||
    place (widthField c.alt.width) 14 ||| place dcyc 16 ||| place (flagBit sioo) 21 ||| place c.instr 24

/-- The four words of a request with its length (R65, R66, R70, R71). -/
def encodeWords (op : ReqKind) (io : IoCommand) (len : Word) : ReqWord :=
  { w0 := encodeHeader op io.toCommand io.dcyc io.dlw io.sioo, w1 := io.addr.value, w2 := io.alt.value, w3 := len }

/-- The encoder: a request's words (R66, R70, R71), an access kind's access (R78). -/
def encode : Instr → Encoded
  | .cmd c => .request (encodeWords .cmd { c with } 0)
  | .read io len => .request (encodeWords .read io len)
  | .write io len => .request (encodeWords .write io len)
  | .map io => .request (encodeWords .map io 0)
  | .rdSr => .access ⟨.read, .sr, 4⟩
  | .wrDlr => .access ⟨.write, .dlr, 4⟩
  | .wrAbr => .access ⟨.write, .abr, 4⟩
  | .wrCcr => .access ⟨.write, .ccr, 4⟩
  | .wrAr => .access ⟨.write, .ar, 4⟩
  | .rdDr8 => .access ⟨.read, .dr, 1⟩
  | .wrDr8 => .access ⟨.write, .dr, 1⟩

/-- The request word whose bits, counted from bit 0 of `W0`, are the number `v` (the table's numbering). -/
def reqWordOfNat (v : Nat) : ReqWord :=
  { w0 := BitVec.ofNat 32 v, w1 := BitVec.ofNat 32 (v / 2 ^ 32), w2 := BitVec.ofNat 32 (v / 2 ^ 64),
    w3 := BitVec.ofNat 32 (v / 2 ^ 96) }

/-- The instruction that the decoder reads from a request whose low `nbits` bits are those of `w`, every higher bit 0; the
sixteen bytes are laid out in memory order first (R65). A word with more than 128 bits is no request (R65, R82). -/
def decodeTableWord (nbits w : Nat) : Option Instr :=
  if w % 2 ^ nbits < 2 ^ 128 then (decodeBytes (reqWordBytes (reqWordOfNat (w % 2 ^ nbits)))).instr? else none

end Sys2Proof
end

