-- ==== Sys2Proof/Machine/Fetch.lean ====
section
/-! DEFINITION. Where the next instruction comes from. In an accepting state it is the request standing at the port (spec
42_executor_sequencer.md R114); in every state with a request in flight it is the access kind that the sequencer state
issues (10_state.md R29, 30_encoding.md R78). There is no instruction memory (R40). -/

namespace Sys2Proof.Machine

/-- The access kind a sequencer state issues (R29, R78 column "emitted in state"). -/
def issued : Seq → Option Instr
  | .busywait | .cmdWait | .rdPoll | .wrPoll | .wrDrain => some .rdSr
  | .lenprog => some .wrDlr
  | .cfgAbr => some .wrAbr
  | .cfgCcr => some .wrCcr
  | .cfgAr => some .wrAr
  | .rdPop => some .rdDr8
  | .wrPush => some .wrDr8
  | .idle | .cmdComplete | .dataComplete | .mappedActive | .faulted => none

/-- READ and WRITE come with a payload buffer; CMD and MAP have none (R63 `buf`, R36, R61). -/
def hasBuffer : Instr → Bool
  | .read _ _ | .write _ _ => true
  | .cmd _ | .map _ | .rdSr | .wrDlr | .wrAbr | .wrCcr | .wrAr | .rdDr8 | .wrDr8 => false

/-- BUF after the acceptance of an offered request: the bytes the host names with a READ or a WRITE, else the buffer as it
is (R37, R114). -/
def offeredBuf (i : Instr) (o : Offer) (m : Memory) : Memory :=
  match o.buf with
  | some bytes => if hasBuffer i then Memory.ofBytes bytes else m
  | none => m

/-- The offered request leaves the port, and the buffer it names becomes BUF (R63, R114). -/
def State.takeOffer (i : Instr) (o : Offer) (rest : List Offer) (s : State) : State :=
  { s with port := rest, buf := offeredBuf i o s.buf }

/-- A well-formed request stands at the port (R114). -/
def State.requestOffered (s : State) : Prop := ∃ o rest i, s.port = o :: rest ∧ decodeRequest o.word = .ok i

/-- The next instruction and the state it runs in; `none` where nothing happens: no request offered, or a word that decode
refuses, which is not taken (R114, R73; log 10). -/
def fetch (s : State) : Option (Instr × State) :=
  if s.seq.accepting then
    match s.port with
    | [] => none
    | o :: rest =>
      match decodeRequest o.word with
      | .ok i => some (i, s.takeOffer i o rest)
      | .refused _ => none
  else (issued s.seq).map (fun i => (i, s))

/-- A state in which a request can be accepted at once: FAULTED or in-flight states are taken back to IDLE. -/
def State.madeAccepting (s : State) : State :=
  if s.seq.accepting then { s with resetIn := false }
  else { s with resetIn := false, seq := .idle, fault := false, cause := 0 }

/-- The request whose bits are the low `nbits` bits of `w` stands first at the port of a block that can accept it. -/
def State.offerTableWord (s : State) (nbits w : Nat) : State :=
  { s.madeAccepting with port := { word := reqWordOfNat (w % 2 ^ nbits), buf := none } :: s.port }

end Sys2Proof.Machine
end

