-- ==== Sys2Proof/Machine/Step.lean ====
section
/-! DEFINITION. One step of the block (spec 42_executor_sequencer.md R113). -/

namespace Sys2Proof.Machine

/-- One step. The reset input wins (70_reset_and_hazards.md R173, R174). In FAULTED no step applies and the outcome is the
fault (R129, R163). Otherwise the next instruction runs, and where there is none nothing changes (R114; log 15). -/
def step (s : State) : Host.Outcome State Fault Refusal :=
  if s.resetIn then .next s.applyReset
  else if s.seq = .faulted then .fault .zeroLength
  else
    match fetch s with
    | none => .next s
    | some (i, t) => exec i t

/-- The state in which the very next step takes the given request from the port (log 7). -/
def State.withFetchWord (s : State) (nbits w : Nat) : State := s.offerTableWord nbits w

end Sys2Proof.Machine
end

