-- ==== Sys2Proof/Machine/Assembler.lean ====
section
/-! DEFINITION. The textual form of a request: spec 30_encoding.md R79 (the line, its operands, which operand a mnemonic takes
and what it means) and R80 (the defaults of omitted fields). Where R79 leaves the text open (spacing, the case of
hexadecimal digits, the base of a number, repeated or reordered operands) the reading is the model's (log 11). -/

namespace Sys2Proof.Machine

/-- The value and width of `<bytes>`: `w` bytes, most significant first, whose count gives the width (R79). -/
def argumentOfText : List Byte → Option Argument
  | [b0] => some (argumentOf (.b1 b0))
  | [b1, b0] => some (argumentOf (.b2 b0 b1))
  | [b2, b1, b0] => some (argumentOf (.b3 b0 b1 b2))
  | [b3, b2, b1, b0] => some (argumentOf (.b4 b0 b1 b2 b3))
  | _ => none

/-- `[i=<byte>/<lw>]`: the operand if it stands first; an omitted one is an absent phase (R80). -/
def takeI (c : Command) : List AsmOperand → Option (Command × List AsmOperand)
  | .i byte lw :: rest => if lw.present then some ({ c with ilw := lw, instr := byte }, rest) else none
  | ops => some (c, ops)

/-- `[a=<bytes>/<lw>]` (R79). -/
def takeA (c : Command) : List AsmOperand → Option (Command × List AsmOperand)
  | .a bytes lw :: rest =>
    match argumentOfText bytes with
    | some arg => if lw.present then some ({ c with adlw := lw, addr := arg }, rest) else none
    | none => none
  | ops => some (c, ops)

/-- `[ab=<bytes>/<lw>]` (R79). -/
def takeAb (c : Command) : List AsmOperand → Option (Command × List AsmOperand)
  | .ab bytes lw :: rest =>
    match argumentOfText bytes with
    | some arg => if lw.present then some ({ c with ablw := lw, alt := arg }, rest) else none
    | none => none
  | ops => some (c, ops)

/-- `[ddr=<mode>]`, omitted: off (R80). -/
def takeDdr (c : Command) : List AsmOperand → Command × List AsmOperand
  | .ddr mode :: rest => ({ c with ddr := mode }, rest)
  | ops => (c, ops)

/-- `[dc=<n>]`, omitted: 0; a count above 31 cannot be expressed (R80, R17). -/
def takeDc (io : IoCommand) : List AsmOperand → Option (IoCommand × List AsmOperand)
  | .dc n :: rest => if n < 32 then some ({ io with dcyc := BitVec.ofNat 5 n }, rest) else none
  | ops => some (io, ops)

/-- `[d=<lw>]`, omitted: None (R80). -/
def takeD (io : IoCommand) : List AsmOperand → Option (IoCommand × List AsmOperand)
  | .d lw :: rest => if lw.present then some ({ io with dlw := lw }, rest) else none
  | ops => some (io, ops)

/-- `[sioo]`, omitted: false (R80). -/
def takeSioo (io : IoCommand) : List AsmOperand → IoCommand × List AsmOperand
  | .sioo :: rest => ({ io with sioo := true }, rest)
  | ops => (io, ops)

/-- `i`, `a`, `ab`, `ddr`: the operands every mnemonic takes (R79). -/
def asmCommand (ops : List AsmOperand) : Option (Command × List AsmOperand) :=
  (takeI {} ops).bind fun p => (takeA p.1 p.2).bind fun p => (takeAb p.1 p.2).map fun p => takeDdr p.1 p.2

/-- All operands but `len` (R79: `dc`, `d`, `sioo` on READ, WRITE, MAP only). -/
def asmIoCommand (ops : List AsmOperand) : Option (IoCommand × List AsmOperand) :=
  (asmCommand ops).bind fun p =>
    (takeDc { p.1 with } p.2).bind fun p => (takeD p.1 p.2).map fun p => takeSioo p.1 p.2

/-- `len=<n>`, which has no default on READ and WRITE (R80) and is the last operand. -/
def asmLen : List AsmOperand → Option Word
  | [.len n] => if n < 2 ^ 32 then some (BitVec.ofNat 32 n) else none
  | _ => none

/-- Assemble one request (R79, R80); an operand its mnemonic does not take, or out of order, is refused. -/
def assemble (mnemonic : ReqKind) (ops : List AsmOperand) : Option Instr :=
  match mnemonic with
  | .cmd => (asmCommand ops).bind fun p => if p.2 = [] then some (.cmd p.1) else none
  | .read => (asmIoCommand ops).bind fun p => (asmLen p.2).map fun n => .read p.1 n
  | .write => (asmIoCommand ops).bind fun p => (asmLen p.2).map fun n => .write p.1 n
  | .map => (asmIoCommand ops).bind fun p => if p.2 = [] then some (.map p.1) else none

/-! ### The line of text -/

/-- The words of a line, as it is split at spaces. -/
def wordsOf : List Char → List (List Char)
  | [] => [[]]
  | c :: cs =>
    match wordsOf cs with
    | [] => [[c]]
    | w :: ws => if c = ' ' then [] :: w :: ws else (c :: w) :: ws

/-- What stands before and after the first slash. -/
def splitSlash : List Char → Option (List Char × List Char)
  | [] => none
  | c :: cs => if c = '/' then some ([], cs) else (splitSlash cs).map fun p => (c :: p.1, p.2)

/-- The value of a decimal digit. -/
def decDigit (c : Char) : Option Nat := if 48 ≤ c.toNat ∧ c.toNat ≤ 57 then some (c.toNat - 48) else none

/-- The value of a binary digit. -/
def binDigit (c : Char) : Option Nat := if c = '0' then some 0 else if c = '1' then some 1 else none

/-- The value of a hexadecimal digit, in either case. -/
def hexDigit (c : Char) : Option Nat :=
  if 48 ≤ c.toNat ∧ c.toNat ≤ 57 then some (c.toNat - 48)
  else if 65 ≤ c.toNat ∧ c.toNat ≤ 70 then some (c.toNat - 55)
  else if 97 ≤ c.toNat ∧ c.toNat ≤ 102 then some (c.toNat - 87)
  else none

/-- `2w` hexadecimal digits as `w` bytes, in the order written (R79). -/
def hexBytes : List Char → Option (List Byte)
  | [] => some []
  | [_] => none
  | h :: l :: cs =>
    (hexDigit h).bind fun x => (hexDigit l).bind fun y =>
      (hexBytes cs).map fun bs => BitVec.ofNat 8 (16 * x + y) :: bs

/-- The digits of a number in a base after a value already read. -/
def numberFrom (base : Nat) (digit : Char → Option Nat) : Nat → List Char → Option Nat
  | n, [] => some n
  | n, c :: cs => (digit c).bind fun d => numberFrom base digit (base * n + d) cs

/-- A number of at least one digit in a base. -/
def numeral (base : Nat) (digit : Char → Option Nat) : List Char → Option Nat
  | [] => none
  | c :: cs => numberFrom base digit 0 (c :: cs)

/-- `<n>`: R79 does not say how it is written. The model takes the numerals of R7: `0x` hexadecimal, as 95_test_vectors.md
writes `len=0xFFFFFFFF`, `0b` binary, a bare numeral decimal, and leading zeros in each (DEDUCED, log 11). -/
def numberOf : List Char → Option Nat
  | '0' :: 'x' :: t => numeral 16 hexDigit t
  | '0' :: 'b' :: t => numeral 2 binDigit t
  | t => numeral 10 decDigit t

/-- `<lw>`: 1, 2 or 4 (R79). -/
def lineOfText (t : List Char) : Option LineWidth :=
  if t = ['1'] then some .single else if t = ['2'] then some .dual else if t = ['4'] then some .quad else none

/-- `<mode>`: off, on or hold (R79). -/
def ddrOfText (t : List Char) : Option DdrMode :=
  if t = ['o', 'f', 'f'] then some .disabled
  else if t = ['o', 'n'] then some .enabled
  else if t = ['h', 'o', 'l', 'd'] then some .enabledWithHold
  else none

/-- `0x<bytes>/<lw>` (R79). -/
def bytesOverLines : List Char → Option (List Byte × LineWidth)
  | '0' :: 'x' :: t => (splitSlash t).bind fun p => (hexBytes p.1).bind fun bs => (lineOfText p.2).map fun lw => (bs, lw)
  | _ => none

/-- One operand of the line (R79); an instruction is a single byte. -/
def operandOfText (t : List Char) : Option AsmOperand :=
  match t with
  | 'i' :: '=' :: r =>
    (bytesOverLines r).bind fun p =>
      match p.1 with
      | [b] => some (.i b p.2)
      | _ => none
  | 'a' :: '=' :: r => (bytesOverLines r).map fun p => .a p.1 p.2
  | 'a' :: 'b' :: '=' :: r => (bytesOverLines r).map fun p => .ab p.1 p.2
  | 'd' :: 'd' :: 'r' :: '=' :: r => (ddrOfText r).map .ddr
  | 'd' :: 'c' :: '=' :: r => (numberOf r).map .dc
  | 'd' :: '=' :: r => (lineOfText r).map .d
  | ['s', 'i', 'o', 'o'] => some .sioo
  | 'l' :: 'e' :: 'n' :: '=' :: r => (numberOf r).map .len
  | _ => none

/-- The operands of the words that follow the mnemonic; every one must be an operand. -/
def operandsOfText : List (List Char) → Option (List AsmOperand)
  | [] => some []
  | t :: ts => (operandOfText t).bind fun o => (operandsOfText ts).map fun os => o :: os

/-- `<mnemonic>` (R79). -/
def mnemonicOfText (t : List Char) : Option ReqKind :=
  if t = ['C', 'M', 'D'] then some .cmd
  else if t = ['R', 'E', 'A', 'D'] then some .read
  else if t = ['W', 'R', 'I', 'T', 'E'] then some .write
  else if t = ['M', 'A', 'P'] then some .map
  else none

/-- Assemble one line of text (R79, R80); spaces in a row count as one. -/
def assembleLine (text : List Char) : Option Instr :=
  match (wordsOf text).filter (fun w => !w.isEmpty) with
  | [] => none
  | m :: ws => (mnemonicOfText m).bind fun k => (operandsOfText ws).bind fun ops => assemble k ops

end Sys2Proof.Machine
end

