-- ==== Sys2Proof/Safety.lean ====
section
/-! DEFINITION. The terms the claims are written in: the invariant of the block, the states a run reaches, the accesses the
block may make (spec 20_memory.md R43, R61), the shape of a request's trace (42_executor_sequencer.md R133), the transition
table (R130), and the liveness premises (70_reset_and_hazards.md R195). -/

namespace Sys2Proof.Config

/-- Position and width of every CCR field under a layout (10_state.md R23). -/
def CcrLayout.slots (l : CcrLayout) : List (Nat × Nat) :=
  [(l.instruction, 8), (l.imode, 2), (l.admode, 2), (l.adsize, 2), (l.abmode, 2), (l.absize, 2), (l.dcyc, 5),
   (l.dmode, 2), (l.fmode, 2), (l.sioo, 1), (l.dhhc, 1), (l.ddrm, 1)]

/-- The fields lie in the word and are disjoint: all that the rules need of a layout (92_eei_decisions.md D6). -/
def CcrLayout.disjoint (l : CcrLayout) : Prop :=
  (∀ f ∈ l.slots, f.1 + f.2 ≤ 32) ∧ l.slots.Pairwise (fun f g => f.1 + f.2 ≤ g.1 ∨ g.1 + g.2 ≤ f.1)

/-- The register offsets of an address map, in the order of the table of 20_memory.md R43. -/
def AddressMap.offsets (m : AddressMap) : List Nat := [m.offSr, m.offDlr, m.offCcr, m.offAr, m.offAbr, m.offDr]

/-- The six registers stand at six addresses: what decoding an access by its address needs of a map (R22, R50). -/
abbrev AddressMap.distinct (m : AddressMap) : Prop := m.offsets.Nodup

/-- "the offsets [...] are multiples of 4, and `QSPI_BASE` is required to be a multiple of 4" (20_memory.md R44). -/
abbrev AddressMap.aligned (m : AddressMap) : Prop := m.qspiBase % 4 = 0 ∧ ∀ off ∈ m.offsets, off % 4 = 0

/-- What the spec requires of an address map. -/
abbrev AddressMap.wf (m : AddressMap) : Prop := m.distinct ∧ m.aligned

end Sys2Proof.Config

namespace Sys2Proof.Machine

/-! ### The accesses the block may make -/

/-- Direction, register and width of an access, as the table of R43 allows them: SR is read by 4 bytes, DLR, CCR, AR and ABR
are written by 4 bytes, DR is read and written by 1 byte. -/
def Event.legal : Event → Bool
  | .rd .sr (.word _) => true
  | .wr .dlr (.word _) | .wr .ccr (.word _) | .wr .ar (.word _) | .wr .abr (.word _) => true
  | .rd .dr (.byte _) | .wr .dr (.byte _) => true
  | _ => false

/-! ### The invariant -/

/-- The request kinds whose run passes through a sequencer state (R130, R133). -/
def Seq.runs : Seq → ReqKind → Bool
  | .lenprog, op | .dataComplete, op => op = .read || op = .write
  | .rdPoll, op | .rdPop, op => op = .read
  | .wrPoll, op | .wrPush, op | .wrDrain, op => op = .write
  | .cmdWait, op | .cmdComplete, op => op = .cmd
  | .mappedActive, op => op = .map
  | .faulted, op => op = .read || op = .write
  | .idle, _ | .busywait, _ | .cfgAbr, _ | .cfgCcr, _ | .cfgAr, _ => true

/-- The states between acceptance and the first completion access, where no byte has been moved yet. -/
def Seq.beforeData : Seq → Bool
  | .busywait | .lenprog | .cfgAbr | .cfgCcr | .cfgAr | .faulted => true
  | .idle | .cmdWait | .rdPoll | .rdPop | .wrPoll | .wrPush | .wrDrain | .cmdComplete | .dataComplete
  | .mappedActive => false

/-- The states in which a byte is still to be moved (R131). -/
def Seq.moving : Seq → Bool
  | .rdPoll | .rdPop | .wrPoll | .wrPush => true
  | .idle | .busywait | .lenprog | .cfgAbr | .cfgCcr | .cfgAr | .cmdWait | .wrDrain | .cmdComplete | .dataComplete
  | .mappedActive | .faulted => false

/-- The configuration states. -/
def Seq.configuring : Seq → Bool
  | .cfgAbr | .cfgCcr | .cfgAr => true
  | .idle | .busywait | .lenprog | .cmdWait | .rdPoll | .rdPop | .wrPoll | .wrPush | .wrDrain | .cmdComplete
  | .dataComplete | .mappedActive | .faulted => false

/-- The latch holds what an acceptance can leave in it: arguments below their widths (R14, R15), and the Command shape for a
CMD (R92). -/
structure Latch.Inv (d : Latch) : Prop where
  addr_fits : d.addr.toNat < 2 ^ (8 * d.adw.bytes)
  alt_fits : d.alt.toNat < 2 ^ (8 * d.abw.bytes)
  cmd_shape : d.op = .cmd → d.dcyc = 0 ∧ d.dlw = .none ∧ d.sioo = false

/-- The invariant of the block. -/
structure State.Inv (s : State) : Prop where
  /-- The latch (R14, R15, R92). -/
  latch : s.d.Inv
  /-- "For CMD and MAP `LEN = 0`" (R20). -/
  no_len : s.d.op = .cmd ∨ s.d.op = .map → s.len = 0
  /-- `0 <= IDX <= LEN` (R20). -/
  idx_le : s.idx.toNat ≤ s.len.toNat
  /-- The sequencer state belongs to the request in flight (R130). -/
  seq_op : s.seq.runs s.d.op = true
  /-- No byte is moved before the configuration is written (R133). -/
  idx_zero : s.seq.beforeData = true → s.idx = 0
  /-- `IDX < LEN` on entry to the streaming states (R131). -/
  idx_lt : s.seq.moving = true → s.idx.toNat < s.len.toNat
  /-- `IDX = LEN` on entry to WR_DRAIN and DATA_COMPLETE (R131). -/
  idx_eq : s.seq = .wrDrain ∨ s.seq = .dataComplete → s.idx = s.len
  /-- `LEN >= 1` once LENPROG has passed (R121). -/
  len_pos : s.seq.configuring = true → s.d.op = .read ∨ s.d.op = .write → s.len ≠ 0
  /-- `FAULT = 1` if and only if `SEQ = FAULTED` (R31). -/
  fault_iff : s.fault = true ↔ s.seq = .faulted
  /-- `CAUSE` is 0 when `FAULT = 0` and 1 when `FAULT = 1` (R31). -/
  cause_eq : s.cause = if s.fault then 1 else 0
  /-- A fault is a zero length (R155). -/
  fault_len : s.seq = .faulted → s.len = 0
  /-- The buffer is in canonical form. -/
  buf_wf : Memory.wf s.buf = true
  /-- Every access so far is one the block may make (R43, R135). -/
  trace_legal : ∀ e ∈ s.trace, e.legal = true
  /-- The registers stand at distinct addresses that are multiples of 4 (R44, R50). -/
  addr_wf : s.params.addr.wf

/-! ### Runs -/

/-- `t` is reached from `s` by steps that each answer a next state. -/
inductive Reaches (s : State) : State → Prop where
  | refl : Reaches s s
  | step {t u : State} : Reaches s t → step t = .next u → Reaches s u

/-! ### The transition table R130 -/

/-- The events of one access by the sequencer state that issues it. -/
inductive Arc (s : State) : Seq → List Event → Prop where
  | stay : s.seq.accepting = true → ¬s.requestOffered → Arc s s.seq []
  | accept : s.seq.accepting = true → s.requestOffered → Arc s .busywait []
  | busy {v : Word} : s.seq = .busywait → srBusy s.params.sr v = true → Arc s .busywait [.rd .sr (.word v)]
  | busyLen {v : Word} : s.seq = .busywait → srBusy s.params.sr v = false → s.d.op = .read ∨ s.d.op = .write →
      Arc s .lenprog [.rd .sr (.word v)]
  | busyCfg {v : Word} : s.seq = .busywait → srBusy s.params.sr v = false → s.d.op = .cmd ∨ s.d.op = .map →
      Arc s .cfgAbr [.rd .sr (.word v)]
  | zeroLength : s.seq = .lenprog → s.len = 0 → Arc s .faulted []
  | length : s.seq = .lenprog → s.len ≠ 0 → Arc s .cfgAbr [.wr .dlr (.word (s.len - 1))]
  | abr : s.seq = .cfgAbr → Arc s .cfgCcr [.wr .abr (.word (abr s.d))]
  | ccr : s.seq = .cfgCcr → Arc s .cfgAr [.wr .ccr (.word (ccr s.params.ccr s.d (fm s.d.op)))]
  | arCmd : s.seq = .cfgAr → s.d.op = .cmd → Arc s .cmdWait [.wr .ar (.word (ar s.d))]
  | arRead : s.seq = .cfgAr → s.d.op = .read → Arc s .rdPoll [.wr .ar (.word (ar s.d))]
  | arWrite : s.seq = .cfgAr → s.d.op = .write → Arc s .wrPoll [.wr .ar (.word (ar s.d))]
  | arMap : s.seq = .cfgAr → s.d.op = .map → Arc s .mappedActive [.wr .ar (.word (ar s.d))]
  | cmdWait {v : Word} : s.seq = .cmdWait → srTcf s.params.sr v = false → Arc s .cmdWait [.rd .sr (.word v)]
  | cmdDone {v : Word} : s.seq = .cmdWait → srTcf s.params.sr v = true → Arc s .cmdComplete [.rd .sr (.word v)]
  | rdWait {v : Word} : s.seq = .rdPoll → srFtf s.params.sr v = false → srTcf s.params.sr v = false →
      Arc s .rdPoll [.rd .sr (.word v)]
  | rdReady {v : Word} : s.seq = .rdPoll → srFtf s.params.sr v = true ∨ srTcf s.params.sr v = true →
      Arc s .rdPop [.rd .sr (.word v)]
  | rdMore {b : Byte} : s.seq = .rdPop → s.idx.toNat + 1 < s.len.toNat → Arc s .rdPoll [.rd .dr (.byte b)]
  | rdLast {b : Byte} : s.seq = .rdPop → s.idx.toNat + 1 = s.len.toNat → Arc s .dataComplete [.rd .dr (.byte b)]
  | wrWait {v : Word} : s.seq = .wrPoll → srFtf s.params.sr v = false → Arc s .wrPoll [.rd .sr (.word v)]
  | wrReady {v : Word} : s.seq = .wrPoll → srFtf s.params.sr v = true → Arc s .wrPush [.rd .sr (.word v)]
  | wrMore : s.seq = .wrPush → s.idx.toNat + 1 < s.len.toNat →
      Arc s .wrPoll [.wr .dr (.byte (Memory.read s.buf s.idx.toNat))]
  | wrLast : s.seq = .wrPush → s.idx.toNat + 1 = s.len.toNat →
      Arc s .wrDrain [.wr .dr (.byte (Memory.read s.buf s.idx.toNat))]
  | drainWait {v : Word} : s.seq = .wrDrain → srTcf s.params.sr v = false → Arc s .wrDrain [.rd .sr (.word v)]
  | drained {v : Word} : s.seq = .wrDrain → srTcf s.params.sr v = true → Arc s .dataComplete [.rd .sr (.word v)]

/-! ### The trace of a request, R133 -/

/-- The event of a read of SR that answers `v`. -/
def srRead (v : Word) : Event := .rd .sr (.word v)

/-- One flag-wait: reads of SR that do not end the poll of state `q`, then one that does (R133, R134). -/
def flagWait (l : Config.SrLayout) (q : Seq) (t : List Event) : Prop :=
  ∃ (waits : List Word) (last : Word), (∀ v ∈ waits, pollEnds l q v = false) ∧ pollEnds l q last = true ∧
    t = waits.map srRead ++ [srRead last]

/-- `config = Wr(ABR) Wr(CCR) Wr(AR)` with the values of the compiler (R107, R133). -/
def configTrace (l : Config.CcrLayout) (d : Latch) : List Event :=
  [.wr .abr (.word (abr d)), .wr .ccr (.word (ccr l d (fm d.op))), .wr .ar (.word (ar d))]

/-- The streaming part of a READ: for each byte of the list one flag-wait and one read of DR that answers it (R133). -/
def readData (l : Config.SrLayout) : List Byte → List Event → Prop
  | [], t => t = []
  | b :: bs, t => ∃ w r, flagWait l .rdPoll w ∧ readData l bs r ∧ t = w ++ [.rd .dr (.byte b)] ++ r

/-- The streaming part of a WRITE: for each byte of the list one flag-wait and one write of it to DR (R133). -/
def writeData (l : Config.SrLayout) : List Byte → List Event → Prop
  | [], t => t = []
  | b :: bs, t => ∃ w r, flagWait l .wrPoll w ∧ writeData l bs r ∧ t = w ++ [.wr .dr (.byte b)] ++ r

/-- `CMD = busy config S(TCF=0)* S(TCF=1)` (R133). -/
def cmdTrace (p : Config.Params) (d : Latch) (t : List Event) : Prop :=
  ∃ busy wait, flagWait p.sr .busywait busy ∧ flagWait p.sr .cmdWait wait ∧ t = busy ++ configTrace p.ccr d ++ wait

/-- `READ = busy Wr(DLR) config ( S(FTF=0 and TCF=0)* S(FTF=1 or TCF=1) Rd(DR) ){L}` (R133). -/
def readTrace (p : Config.Params) (d : Latch) (len : Word) (bytes : List Byte) (t : List Event) : Prop :=
  ∃ busy data, flagWait p.sr .busywait busy ∧ readData p.sr bytes data ∧
    t = busy ++ [.wr .dlr (.word (len - 1))] ++ configTrace p.ccr d ++ data

/-- `WRITE = busy Wr(DLR) config ( S(FTF=0)* S(FTF=1) Wr(DR) ){L} S(TCF=0)* S(TCF=1)` (R133). -/
def writeTrace (p : Config.Params) (d : Latch) (len : Word) (bytes : List Byte) (t : List Event) : Prop :=
  ∃ busy data wait, flagWait p.sr .busywait busy ∧ writeData p.sr bytes data ∧ flagWait p.sr .wrDrain wait ∧
    t = busy ++ [.wr .dlr (.word (len - 1))] ++ configTrace p.ccr d ++ data ++ wait

/-- `MAP = busy config` (R133). -/
def mapTrace (p : Config.Params) (d : Latch) (t : List Event) : Prop :=
  ∃ busy, flagWait p.sr .busywait busy ∧ t = busy ++ configTrace p.ccr d

/-- The first `n` bytes of the buffer, in order. -/
def bufBytes (m : Memory) (n : Nat) : List Byte := (List.range n).map (Memory.read m)

/-! ### Liveness premises -/

/-- The premise of R195 for the polling state `q`: some coming read of SR answers what ends its poll. `LIVE_BUSY` is this at
BUSYWAIT, `LIVE_TCF` at CMD_WAIT and WR_DRAIN, `LIVE_RD` at RD_POLL, `LIVE_WR` at WR_POLL. -/
def State.Live (s : State) (q : Seq) : Prop := ∃ n, pollEnds s.params.sr q (s.srAnswerAt n) = true

/-- Where a poll goes when it ends (R130). -/
def pollNext (s : State) : Seq :=
  match s.seq with
  | .busywait => afterBusy s.d.op
  | .cmdWait => .cmdComplete
  | .rdPoll => .rdPop
  | .wrPoll => .wrPush
  | .wrDrain => .dataComplete
  | q => q

end Sys2Proof.Machine
end

