-- ==== Sys2Proof/Certificates/Slice0/Obligations.lean ====
section
/-! DEFINITION. The statements about QSPI-TC, in the order of the spec: encoding, argument encoding, register compiler,
requests, access kinds, steps, invariants and whole-machine rules, traces and runs of whole requests, and,
last, the parameters. -/

open Sys2Proof Sys2Proof.Machine

/-! ### Encoding (30_encoding.md) -/

/-- Decoding an encoded well-formed instruction gives it back, for every request and every access kind: no operand bit is
dropped (R66 to R71, R78). -/
def Obligations.DecodeOfEncodeIsTheInstruction : Prop :=
  ∀ i : Instr, i.wf = true → decode (encode i) = .ok i

/-- Whatever is decoded fits: the canonical value of each argument lies below `2^(8w)` (R14, R15, R70). -/
def Obligations.DecodedInstructionIsWellFormed : Prop :=
  ∀ (e : Encoded) (i : Instr), decode e = .ok i → i.wf = true

/-- R72: a word is a request exactly when its four numbered constraints hold, and "Nothing else is checked". -/
def Obligations.RequestWordIsAcceptedExactlyWhenWellShaped : Prop :=
  ∀ w : ReqWord, (∃ i, decodeRequest w = .ok i) ↔
    w.w0.extractLsb' 22 2 = 0 ∧ w.w0.extractLsb' 2 2 ≠ 3 ∧
    (w.w0.extractLsb' 0 2 = 0 →
      w.w0.extractLsb' 10 2 = 0 ∧ w.w0.extractLsb' 16 5 = 0 ∧ w.w0.extractLsb' 21 1 = 0 ∧ w.w3 = 0) ∧
    (w.w0.extractLsb' 0 2 = 3 → w.w3 = 0)

/-- Encoding what a word decodes to gives the word back but for the bits of `W1` and `W2` above the byte widths, which are
zero in the canonical word (R70, R76). -/
def Obligations.EncodeOfDecodeIsTheMaskedWord : Prop :=
  ∀ (w : ReqWord) (i : Instr), decodeRequest w = .ok i →
    ∃ v : ReqWord, encode i = .request v ∧ v.w0 = w.w0 ∧ v.w3 = w.w3 ∧
      v.w1.toNat = w.w1.toNat % 2 ^ (8 * ((w.w0.extractLsb' 12 2).toNat + 1)) ∧
      v.w2.toNat = w.w2.toNat % 2 ^ (8 * ((w.w0.extractLsb' 14 2).toNat + 1))

/-- A request held in memory, each word little-endian and `W0` lowest, decodes as its words do (R65): byte `k` of the sixteen
is byte `k`, counted from the least significant, of the one number that the opcode table's numbering makes of the four
words, and that number decodes as they do. Every other length is refused (R65, R82). -/
def Obligations.RequestBytesDecodeAsTheirWords : Prop :=
  (∀ w : ReqWord, decodeBytes (reqWordBytes w) = decodeRequest w ∧ (reqWordBytes w).length = 16 ∧
    (∀ (k : Nat) (b : Byte), (reqWordBytes w)[k]? = some b →
      b.toNat = (w.w0.toNat + 2 ^ 32 * w.w1.toNat + 2 ^ 64 * w.w2.toNat + 2 ^ 96 * w.w3.toNat) / 256 ^ k % 256) ∧
    decodeTableWord 128 (w.w0.toNat + 2 ^ 32 * w.w1.toNat + 2 ^ 64 * w.w2.toNat + 2 ^ 96 * w.w3.toNat) =
      (decodeRequest w).instr?) ∧
  ∀ l : List Byte, l.length ≠ 16 → decodeBytes l = .refused .wrongLength

/-- The six worked encodings of R81; the seven access kinds of R78 with the registers and widths of R43, and no other access
is one (R135); and one kind by its address under the spec's default map (R41; log 5). -/
def Obligations.WorkedEncodingsDecode : Prop :=
  decode (.request ⟨0x06000010, 0, 0, 0⟩) = .ok (.cmd { ilw := .single, instr := 0x06 }) ∧
  decode (.request ⟨0x20002050, 0x00001000, 0, 0⟩) =
    .ok (.cmd { ilw := .single, instr := 0x20, adlw := .single, addr := ⟨.w3, 0x1000⟩ }) ∧
  decode (.request ⟨0xEB042CF1, 0x00001000, 0, 0x00000100⟩) =
    .ok (.read { ilw := .quad, instr := 0xEB, adlw := .quad, addr := ⟨.w3, 0x1000⟩, dcyc := 4, dlw := .quad } 256) ∧
  decode (.request ⟨0x02002452, 0x00000100, 0, 0x00000004⟩) =
    .ok (.write { ilw := .single, instr := 0x02, adlw := .single, addr := ⟨.w3, 0x100⟩, dlw := .single } 4) ∧
  decode (.request ⟨0xEB242FD3, 0, 0x000000A0, 0⟩) =
    .ok (.map { ilw := .single, instr := 0xEB, adlw := .quad, addr := ⟨.w3, 0⟩, ablw := .quad, alt := ⟨.w1, 0xA0⟩,
                dcyc := 4, dlw := .quad, sioo := true }) ∧
  decode (.request ⟨0x05000411, 0, 0, 0x00000001⟩) = .ok (.read { ilw := .single, instr := 0x05, dlw := .single } 1) ∧
  decode (.access ⟨.read, .sr, 4⟩) = .ok .rdSr ∧ decode (.access ⟨.write, .dlr, 4⟩) = .ok .wrDlr ∧
  decode (.access ⟨.write, .abr, 4⟩) = .ok .wrAbr ∧ decode (.access ⟨.write, .ccr, 4⟩) = .ok .wrCcr ∧
  decode (.access ⟨.write, .ar, 4⟩) = .ok .wrAr ∧ decode (.access ⟨.read, .dr, 1⟩) = .ok .rdDr8 ∧
  decode (.access ⟨.write, .dr, 1⟩) = .ok .wrDr8 ∧
  (∀ (a : Access) (i : Instr), decode (.access a) = .ok i → encode i = .access a) ∧
  decodeBus addressMap .write 0xA0001014 4 = .ok .wrCcr

/-- A line of text that assembles (R79) carries arguments whose value fits the number of digits written, and its words are
accepted by the decoder, which gives the request back. -/
def Obligations.AssembledLineIsARequest : Prop :=
  ∀ (text : List Char) (i : Instr), assembleLine text = some i →
    i.wf = true ∧ ∃ w, encode i = .request w ∧ decodeRequest w = .ok i

/-- The lines of R81 assemble to its words: a sanity statement. -/
def Obligations.WorkedLinesAssemble : Prop :=
  (assembleLine "CMD i=0x06/1".toList).map encode = some (.request ⟨0x06000010, 0, 0, 0⟩) ∧
  (assembleLine "CMD i=0x20/1 a=0x001000/1".toList).map encode = some (.request ⟨0x20002050, 0x00001000, 0, 0⟩) ∧
  (assembleLine "READ i=0xEB/4 a=0x001000/4 dc=4 d=4 len=256".toList).map encode =
    some (.request ⟨0xEB042CF1, 0x00001000, 0, 0x00000100⟩) ∧
  (assembleLine "WRITE i=0x02/1 a=0x000100/1 d=1 len=4".toList).map encode =
    some (.request ⟨0x02002452, 0x00000100, 0, 0x00000004⟩) ∧
  (assembleLine "MAP i=0xEB/1 a=0x000000/4 ab=0xA0/4 dc=4 d=4 sioo".toList).map encode =
    some (.request ⟨0xEB242FD3, 0, 0x000000A0, 0⟩) ∧
  (assembleLine "READ i=0x05/1 d=1 len=1".toList).map encode = some (.request ⟨0x05000411, 0, 0, 0x00000001⟩)

/-! ### Argument encoding (40_argument_encoding.md) -/

/-- R84: `arg_value` is the sum of `b_i * 256^i` over the bytes present (`Nat.ofDigits`), and lies below `2^(8w)`. -/
def Obligations.ArgumentValueIsTheLittleEndianSum : Prop :=
  ∀ a : ArgumentValue,
    (argValue a).toNat = Nat.ofDigits 256 ((argBytes a).map BitVec.toNat) ∧
    (argBytes a).length = (argWidth a).bytes ∧ (argValue a).toNat < 2 ^ (8 * (argWidth a).bytes)

/-- R87: an argument of width `w` built from a number keeps its low `w` bytes, so its value is the number modulo `2^(8w)`;
this is the mask of R70. -/
def Obligations.ArgumentFromNumberTruncates : Prop :=
  ∀ (v : Word) (w : ByteWidth), argWidth (argFromU32 v w) = w ∧
    (∀ (k : Nat) (b : Byte), (argBytes (argFromU32 v w))[k]? = some b → b.toNat = v.toNat / 256 ^ k % 256) ∧
    (argValue (argFromU32 v w)).toNat = v.toNat % 2 ^ (8 * w.bytes) ∧
    argumentOf (argFromU32 v w) = maskedArgument w v

/-- R86: the size code is the width minus 1, and R95: it is what CCR gets for a present address or alternate-bytes phase,
whatever the value. The bit positions are the spec's default layout (log 5). -/
def Obligations.SizeCodeFollowsTheByteWidth : Prop :=
  ∀ (d : Latch) (m : FuncMode),
    (d.adlw ≠ .none → ((ccr ccrLayout d m).extractLsb' 12 2).toNat = d.adw.bytes - 1) ∧
    (d.ablw ≠ .none → ((ccr ccrLayout d m).extractLsb' 16 2).toNat = d.abw.bytes - 1)

/-! ### Register compiler (41_register_compiler.md) -/

/-- R103: every field of the CCR value stands in its bits, with the values of R93 to R101 and zero in the reserved bits
(R102); the codes of a line width (R94), a functional mode (R97) and a byte width (R95) are written out, and so is the
functional mode of each request kind (R91). The bit positions and the codes are the spec's defaults from general knowledge
(D6, log 5). -/
def Obligations.CcrFieldsHoldTheirValues : Prop :=
  (modeCode .none = 0 ∧ modeCode .single = 1 ∧ modeCode .dual = 2 ∧ modeCode .quad = 3) ∧
  (fm .cmd = .write ∧ fm .read = .read ∧ fm .write = .write ∧ fm .map = .mapped) ∧
  (fmodeCode .write = 0 ∧ fmodeCode .read = 1 ∧ fmodeCode .poll = 2 ∧ fmodeCode .mapped = 3) ∧
  (∀ w : ByteWidth, (sizeCode w).toNat = w.bytes - 1) ∧
  ∀ (d : Latch) (m : FuncMode),
    (ccr ccrLayout d m).extractLsb' 0 8 = (if d.ilw = .none then 0 else d.instr) ∧
    (ccr ccrLayout d m).extractLsb' 8 2 = modeCode d.ilw ∧
    (ccr ccrLayout d m).extractLsb' 10 2 = modeCode d.adlw ∧
    (ccr ccrLayout d m).extractLsb' 12 2 = (if d.adlw = .none then 0 else sizeCode d.adw) ∧
    (ccr ccrLayout d m).extractLsb' 14 2 = modeCode d.ablw ∧
    (ccr ccrLayout d m).extractLsb' 16 2 = (if d.ablw = .none then 0 else sizeCode d.abw) ∧
    (ccr ccrLayout d m).extractLsb' 18 5 = d.dcyc ∧
    (ccr ccrLayout d m).getLsbD 23 = false ∧
    (ccr ccrLayout d m).extractLsb' 24 2 = modeCode d.dlw ∧
    (ccr ccrLayout d m).extractLsb' 26 2 = fmodeCode m ∧
    (ccr ccrLayout d m).getLsbD 28 = d.sioo ∧
    (ccr ccrLayout d m).getLsbD 29 = false ∧
    (ccr ccrLayout d m).getLsbD 30 = decide (d.ddr = .enabledWithHold) ∧
    (ccr ccrLayout d m).getLsbD 31 = decide (d.ddr ≠ .disabled)

/-- D6: "no rule depends on the positions, only on the fields being disjoint": under every layout of disjoint fields each
field of the compiled word reads back, and a bit of no field is 0. -/
def Obligations.CcrFieldsReadBackUnderEveryDisjointLayout : Prop :=
  ∀ (l : Config.CcrLayout) (d : Latch) (m : FuncMode), l.disjoint →
    (ccr l d m).extractLsb' l.instruction 8 = instructionField d ∧
    (ccr l d m).extractLsb' l.imode 2 = modeCode d.ilw ∧
    (ccr l d m).extractLsb' l.admode 2 = modeCode d.adlw ∧
    (ccr l d m).extractLsb' l.adsize 2 = adsizeField d ∧
    (ccr l d m).extractLsb' l.abmode 2 = modeCode d.ablw ∧
    (ccr l d m).extractLsb' l.absize 2 = absizeField d ∧
    (ccr l d m).extractLsb' l.dcyc 5 = d.dcyc ∧
    (ccr l d m).extractLsb' l.dmode 2 = modeCode d.dlw ∧
    (ccr l d m).extractLsb' l.fmode 2 = fmodeCode m ∧
    (ccr l d m).getLsbD l.sioo = d.sioo ∧
    (ccr l d m).getLsbD l.dhhc = ddrHoldBit d.ddr ∧
    (ccr l d m).getLsbD l.ddrm = ddrEnableBit d.ddr ∧
    ∀ p, (∀ f ∈ l.slots, p < f.1 ∨ f.1 + f.2 ≤ p) → (ccr l d m).getLsbD p = false

/-- The compiler reads nothing of an absent phase (R13, R14, R15): changing the payload of one changes none of the three
compiled values, under any layout; and the argument register of an absent phase gets 0 (R104, R105; D11). -/
def Obligations.AbsentPhaseIsNotRead : Prop :=
  ∀ (l : Config.CcrLayout) (d : Latch) (m : FuncMode) (b : Byte) (w v : ByteWidth) (x y : Word),
    (d.ilw = .none → ccr l { d with instr := b } m = ccr l d m ∧ ar { d with instr := b } = ar d ∧
      abr { d with instr := b } = abr d) ∧
    (d.adlw = .none → ccr l { d with adw := w, addr := x } m = ccr l d m ∧ ar { d with adw := w, addr := x } = ar d ∧
      abr { d with adw := w, addr := x } = abr d ∧ ar d = 0) ∧
    (d.ablw = .none → ccr l { d with abw := v, alt := y } m = ccr l d m ∧ ar { d with abw := v, alt := y } = ar d ∧
      abr { d with abw := v, alt := y } = abr d ∧ abr d = 0)

/-- No request gives the functional mode Poll (R75, R91), so no CCR value the block writes carries the code of Poll in its
data-direction field, under any layout of disjoint fields (D6). That this code is 10 is the spec's default from general
knowledge (R97, log 5). -/
def Obligations.NoRequestWritesThePollCode : Prop :=
  ∀ (l : Config.CcrLayout) (d : Latch), l.disjoint → (ccr l d (fm d.op)).extractLsb' l.fmode 2 ≠ 2

/-! ### Requests: what each leaves, in an accepting state (42_executor_sequencer.md R114) -/

/-- CMD completes in every accepting state: the latch holds the Command and, R92, no dummy cycles, no data width and no
send-once flag; `LEN` and `IDX` are 0; nothing else changes. -/
def Obligations.CmdFillsTheLatch : Prop :=
  ∀ (c : Command) (s : State), s.seq.accepting = true →
    exec (.cmd c) s = .next { s with
      d := { op := .cmd, ilw := c.ilw, instr := c.instr, adlw := c.adlw, adw := c.addr.width, addr := c.addr.value,
             ablw := c.ablw, abw := c.alt.width, alt := c.alt.value, ddr := c.ddr, dcyc := 0, dlw := .none,
             sioo := false }
      len := 0, idx := 0, seq := .busywait }

/-- READ completes in every accepting state, a length of 0 included (R114, R140). -/
def Obligations.ReadFillsTheLatch : Prop :=
  ∀ (io : IoCommand) (len : Word) (s : State), s.seq.accepting = true →
    exec (.read io len) s = .next { s with
      d := { op := .read, ilw := io.ilw, instr := io.instr, adlw := io.adlw, adw := io.addr.width,
             addr := io.addr.value, ablw := io.ablw, abw := io.alt.width, alt := io.alt.value, ddr := io.ddr,
             dcyc := io.dcyc, dlw := io.dlw, sioo := io.sioo }
      len := len, idx := 0, seq := .busywait }

/-- WRITE completes in every accepting state, a length of 0 included (R114, R145). -/
def Obligations.WriteFillsTheLatch : Prop :=
  ∀ (io : IoCommand) (len : Word) (s : State), s.seq.accepting = true →
    exec (.write io len) s = .next { s with
      d := { op := .write, ilw := io.ilw, instr := io.instr, adlw := io.adlw, adw := io.addr.width,
             addr := io.addr.value, ablw := io.ablw, abw := io.alt.width, alt := io.alt.value, ddr := io.ddr,
             dcyc := io.dcyc, dlw := io.dlw, sioo := io.sioo }
      len := len, idx := 0, seq := .busywait }

/-- MAP completes in every accepting state (R114, R150). -/
def Obligations.MapFillsTheLatch : Prop :=
  ∀ (io : IoCommand) (s : State), s.seq.accepting = true →
    exec (.map io) s = .next { s with
      d := { op := .map, ilw := io.ilw, instr := io.instr, adlw := io.adlw, adw := io.addr.width,
             addr := io.addr.value, ablw := io.ablw, abw := io.alt.width, alt := io.alt.value, ddr := io.ddr,
             dcyc := io.dcyc, dlw := io.dlw, sioo := io.sioo }
      len := 0, idx := 0, seq := .busywait }

/-- R30: outside the accepting states a request waits without any effect on the block: run there it changes nothing, and a
step is the same whatever stands at the port, which it leaves as it is. -/
def Obligations.OfferedRequestWaitsWhileInFlight : Prop :=
  ∀ s : State, (s.seq.accepting = true ↔
      s.seq = .idle ∨ s.seq = .cmdComplete ∨ s.seq = .dataComplete ∨ s.seq = .mappedActive) ∧
    (s.seq.accepting = false →
      (∀ (i : Instr) (w : ReqWord), encode i = .request w → exec i s = .next s) ∧
      (∀ (t : State) (p : List Offer), step s = .next t →
        t.port = s.port ∧ step { s with port := p } = .next { t with port := p }))

/-- The acceptance step takes the offered word apart as R66 and R70 say: every field of the latch is its bits of the header,
the arguments are the words below their widths, `LEN` is `W3`; the word leaves the port, and nothing else changes but BUF. A
CMD or a MAP leaves BUF as it is (R53, R61); a READ or a WRITE that names bytes makes byte `i` of BUF the `i`-th of them (R37,
R114); and an offer that names none leaves BUF as it is, which is the model's choice (log 12). -/
def Obligations.AcceptanceLatchesTheOfferedWord : Prop :=
  ∀ (s : State) (o : Offer) (rest : List Offer) (i : Instr),
    s.resetIn = false → s.seq.accepting = true → s.port = o :: rest → decodeRequest o.word = .ok i →
    ∃ t, step s = .next t ∧
      opCode t.d.op = o.word.w0.extractLsb' 0 2 ∧ ddrCode t.d.ddr = o.word.w0.extractLsb' 2 2 ∧
      lineCode t.d.ilw = o.word.w0.extractLsb' 4 2 ∧ lineCode t.d.adlw = o.word.w0.extractLsb' 6 2 ∧
      lineCode t.d.ablw = o.word.w0.extractLsb' 8 2 ∧ lineCode t.d.dlw = o.word.w0.extractLsb' 10 2 ∧
      t.d.adw.bytes = (o.word.w0.extractLsb' 12 2).toNat + 1 ∧
      t.d.abw.bytes = (o.word.w0.extractLsb' 14 2).toNat + 1 ∧
      t.d.dcyc = o.word.w0.extractLsb' 16 5 ∧ t.d.sioo = o.word.w0.getLsbD 21 ∧
      t.d.instr = o.word.w0.extractLsb' 24 8 ∧
      t.d.addr.toNat = o.word.w1.toNat % 2 ^ (8 * t.d.adw.bytes) ∧
      t.d.alt.toNat = o.word.w2.toNat % 2 ^ (8 * t.d.abw.bytes) ∧
      (o.word.w0.extractLsb' 0 2 = 0 ∨ o.word.w0.extractLsb' 0 2 = 3 → t.buf = s.buf) ∧
      (o.word.w0.extractLsb' 0 2 = 1 ∨ o.word.w0.extractLsb' 0 2 = 2 → ∀ bs, o.buf = some bs →
        ∀ (k : Nat) (b : Byte), bs[k]? = some b → Memory.read t.buf k = b) ∧
      (o.buf = none → t.buf = s.buf) ∧
      t = { s with d := t.d, len := o.word.w3, idx := 0, seq := .busywait, port := rest,
                   buf := offeredBuf i o s.buf }

/-- R114: in an accepting state nothing changes when the host offers no request, and nothing changes and the word is not
taken when decode refuses it (R73). -/
def Obligations.NoRequestAndRefusedWordChangeNothing : Prop :=
  ∀ s : State, s.resetIn = false → s.seq.accepting = true →
    (s.port = [] → step s = .next s) ∧
    (∀ (o : Offer) (rest : List Offer) (r : Reject), s.port = o :: rest → decodeRequest o.word = .refused r →
      step s = .next s)

/-! ### Access kinds: what each step does, and that nothing else changes -/

/-- R115: BUSYWAIT reads SR once and tests BUSY; READ and WRITE go on to LENPROG, CMD and MAP to CFG_ABR (R116). The bit is
the parameter `SR_BUSY` (R6, R24), whose default 5 is general knowledge (D7, log 5). -/
def Obligations.BusyWaitReadsSrAndTestsBusy : Prop :=
  ∀ s : State, s.seq = .busywait →
    exec .rdSr s = .next { s with
      seq := if s.srAnswer.getLsbD s.params.sr.busy then .busywait
             else if s.d.op = .read ∨ s.d.op = .write then .lenprog else .cfgAbr
      srScript := s.srScript.tail, srCount := s.srCount + 1
      trace := s.trace ++ [.rd .sr (.word s.srAnswer)] }

/-- R122: CMD_WAIT reads SR once and tests TCF. The bit is the parameter `SR_TCF` (R6, R24), whose default 1 is general
knowledge (D7, log 5). -/
def Obligations.CommandWaitReadsSrAndTestsTransferComplete : Prop :=
  ∀ s : State, s.seq = .cmdWait →
    exec .rdSr s = .next { s with
      seq := if s.srAnswer.getLsbD s.params.sr.tcf then .cmdComplete else .cmdWait
      srScript := s.srScript.tail, srCount := s.srCount + 1
      trace := s.trace ++ [.rd .sr (.word s.srAnswer)] }

/-- R123: RD_POLL reads SR once; FTF or TCF in that one value ends the poll. The bits are the parameters `SR_FTF` and
`SR_TCF` (R6, R24), whose defaults 2 and 1 are general knowledge (D7, log 5). -/
def Obligations.ReadPollReadsSrAndTestsEitherFlag : Prop :=
  ∀ s : State, s.seq = .rdPoll →
    exec .rdSr s = .next { s with
      seq := if s.srAnswer.getLsbD s.params.sr.ftf ∨ s.srAnswer.getLsbD s.params.sr.tcf then .rdPop else .rdPoll
      srScript := s.srScript.tail, srCount := s.srCount + 1
      trace := s.trace ++ [.rd .sr (.word s.srAnswer)] }

/-- R125: WR_POLL reads SR once; only FTF ends the poll, "TCF is not part of this test". The bit is the parameter `SR_FTF`
(R6, R24), whose default 2 is general knowledge (D7, log 5). -/
def Obligations.WritePollReadsSrAndTestsFifoThreshold : Prop :=
  ∀ s : State, s.seq = .wrPoll →
    exec .rdSr s = .next { s with
      seq := if s.srAnswer.getLsbD s.params.sr.ftf then .wrPush else .wrPoll
      srScript := s.srScript.tail, srCount := s.srCount + 1
      trace := s.trace ++ [.rd .sr (.word s.srAnswer)] }

/-- R127: WR_DRAIN reads SR once and tests TCF. The bit is the parameter `SR_TCF` (R6, R24), whose default 1 is general
knowledge (D7, log 5). -/
def Obligations.WriteDrainReadsSrAndTestsTransferComplete : Prop :=
  ∀ s : State, s.seq = .wrDrain →
    exec .rdSr s = .next { s with
      seq := if s.srAnswer.getLsbD s.params.sr.tcf then .dataComplete else .wrDrain
      srScript := s.srScript.tail, srCount := s.srCount + 1
      trace := s.trace ++ [.rd .sr (.word s.srAnswer)] }

/-- R117: LENPROG takes the fault at `LEN = 0` (`FAULT`, `CAUSE` and `SEQ` are written, no access is made and nothing else
changes), and otherwise writes `LEN - 1` to DLR and goes to CFG_ABR. -/
def Obligations.LengthStepProgramsOrFaults : Prop :=
  ∀ s : State, s.seq = .lenprog →
    (s.len = 0 → exec .wrDlr s = .next { s with fault := true, cause := 1, seq := .faulted }) ∧
    (s.len ≠ 0 → ∃ v : Word, v.toNat + 1 = s.len.toNat ∧
      exec .wrDlr s = .next { s with
        seq := .cfgAbr, periph := { s.periph with dlr := v }
        trace := s.trace ++ [.wr .dlr (.word v)] })

/-- R118: CFG_ABR writes `abr(D)`, the alternate bytes of a present phase, else 0 (R104). -/
def Obligations.ConfigWritesAbr : Prop :=
  ∀ s : State, s.seq = .cfgAbr →
    exec .wrAbr s = .next { s with
      seq := .cfgCcr, periph := { s.periph with abr := if s.d.ablw = .none then 0 else s.d.alt }
      trace := s.trace ++ [.wr .abr (.word (if s.d.ablw = .none then 0 else s.d.alt))] }

/-- R119: CFG_CCR writes `ccr(D, fm(D.OP))`, under the layout that State carries (R6), all fields in one write. The
launch bit of the peripheral (R109) is the model's own record (log 8) and stands in a statement of its own. -/
def Obligations.ConfigWritesCcr : Prop :=
  ∀ s : State, s.seq = .cfgCcr →
    ∃ b : Bool, exec .wrCcr s = .next { s with
      seq := .cfgAr, periph := { s.periph with ccr := ccr s.params.ccr s.d (fm s.d.op), launched := b }
      trace := s.trace ++ [.wr .ccr (.word (ccr s.params.ccr s.d (fm s.d.op)))] }

/-- R120: CFG_AR writes `ar(D)`, the address of a present phase, else 0 (R105), and goes on by `D.OP` alone (R121). -/
def Obligations.ConfigWritesAr : Prop :=
  ∀ s : State, s.seq = .cfgAr →
    ∃ b : Bool, exec .wrAr s = .next { s with
      seq := match s.d.op with
        | .cmd => .cmdWait
        | .read => .rdPoll
        | .write => .wrPoll
        | .map => .mappedActive
      periph := { s.periph with ar := if s.d.adlw = .none then 0 else s.d.addr, launched := b }
      trace := s.trace ++ [.wr .ar (.word (if s.d.adlw = .none then 0 else s.d.addr))] }

/-- R124: RD_POP reads one byte of DR, whatever it is, and stores it at `BUF[IDX]`; every other byte of the buffer and every
other part of the state is as before. -/
def Obligations.ReadPopStoresTheByte : Prop :=
  ∀ s : State, s.seq = .rdPop → s.idx.toNat < s.len.toNat → Memory.wf s.buf = true →
    ∃ m : Memory, (∀ a, Memory.read m a = if a = s.idx.toNat then s.drAnswer else Memory.read s.buf a) ∧
      exec .rdDr8 s = .next { s with
        buf := m, idx := s.idx + 1, seq := if s.idx + 1 = s.len then .dataComplete else .rdPoll
        drScript := s.drScript.tail, drCount := s.drCount + 1
        trace := s.trace ++ [.rd .dr (.byte s.drAnswer)] }

/-- R126: WR_PUSH writes the byte at `BUF[IDX]` to DR; the buffer is unchanged. -/
def Obligations.WritePushSendsTheByte : Prop :=
  ∀ s : State, s.seq = .wrPush → s.idx.toNat < s.len.toNat →
    ∃ b : Bool, exec .wrDr8 s = .next { s with
      idx := s.idx + 1, seq := if s.idx + 1 = s.len then .wrDrain else .wrPoll
      periph := { s.periph with launched := b }
      trace := s.trace ++ [.wr .dr (.byte (Memory.read s.buf s.idx.toNat))] }

/-- An access kind run in a sequencer state whose rule does not issue it (R78, R130) is refused by name, and a byte access
past the end of the buffer, which R52 does not define, is a fault by name. Both are the model's stops (log 9). -/
def Obligations.AccessElsewhereStopsByName : Prop :=
  ∀ (i : Instr) (a : Access) (s : State), encode i = .access a →
    (issued s.seq ≠ some i → exec i s = .refused (.notIssuedHere s.seq)) ∧
    (issued s.seq = some i → (i = .rdDr8 ∨ i = .wrDr8) → s.len.toNat ≤ s.idx.toNat →
      exec i s = .fault .bufIndexOutOfRange)

/-- The launch point R109, with its correction for a READ: after CCR the transaction is launched exactly by a request that is
not MAP, has no address phase and is no WRITE with a data phase; AR launches one with an address phase; the first byte to
DR launches a WRITE with a data phase. When a launch counts as the new transaction's is the model's record (log 8). -/
def Obligations.LaunchFollowsTheLaunchPoint : Prop :=
  ∀ (s t : State), s.d.op ≠ .cmd ∨ s.d.dlw = .none →
    (exec .wrCcr s = .next t →
      (t.periph.launched = true ↔
        s.d.op ≠ .map ∧ ¬(s.d.op = .write ∧ s.d.dlw ≠ .none) ∧ s.d.adlw = .none)) ∧
    (exec .wrAr s = .next t →
      (t.periph.launched = true ↔ s.periph.launched = true ∨
        (s.d.op ≠ .map ∧ ¬(s.d.op = .write ∧ s.d.dlw ≠ .none) ∧ s.d.adlw ≠ .none))) ∧
    (exec .wrDr8 s = .next t →
      (t.periph.launched = true ↔ s.periph.launched = true ∨ (s.d.op = .write ∧ s.d.dlw ≠ .none)))

/-! ### Steps, the fault and reset -/

/-- A step runs the next instruction: with a request in flight the access kind that the sequencer state issues (R29, R78), in
an accepting state the decoded request at the port, which has left the port with its buffer named (R114). -/
def Obligations.StepRunsTheNextInstruction : Prop :=
  ∀ (s : State) (i : Instr), s.resetIn = false →
    (issued s.seq = some i → step s = exec i s) ∧
    (∀ (o : Offer) (rest : List Offer), s.seq.accepting = true → s.port = o :: rest →
      decode (.request o.word) = .ok i →
      step s = exec i { s with port := rest, buf := offeredBuf i o s.buf })

/-- R129: in FAULTED no step applies, whatever is offered, and a request is not accepted. That the outcome of a step there is
the fault `zeroLength`, and not an idle step, is the model's reading of R129 and R163 (DEDUCED, log 15). -/
def Obligations.FaultedHasNoStep : Prop :=
  ∀ s : State, s.seq = .faulted → s.resetIn = false →
    step s = .fault .zeroLength ∧
    ∀ (i : Instr) (w : ReqWord), encode i = .request w → exec i s = .next s

/-- R173, R174, R175: reset, asserted in any state, puts the block in IDLE with `FAULT`, `CAUSE`, `LEN` and `IDX` zero and an
empty trace; it makes no access and leaves the buffer, the peripheral and the host's offers. The latch value is the
model's (log 1). -/
def Obligations.ResetPutsTheBlockInIdle : Prop :=
  ∀ s : State, s.resetIn = true →
    ∃ d : Latch, step s = .next { s with
      d := d, len := 0, idx := 0, seq := .idle, fault := false, cause := 0, trace := [], resetIn := false }

/-- R38: the values that the spec gives for reset. -/
def Obligations.ResetStateHoldsTheSpecsValues : Prop :=
  State.reset.seq = .idle ∧ State.reset.fault = false ∧ State.reset.cause = 0 ∧ State.reset.idx = 0 ∧
    State.reset.len = 0 ∧ State.reset.trace = []

/-- "It is the only way out of `FAULTED`" (R173): a step that starts with `FAULT` set is a reset. -/
def Obligations.FaultIsClearedOnlyByReset : Prop :=
  ∀ s t : State, s.Inv → s.fault = true → step s = .next t → s.resetIn = true ∧ t.seq = .idle

/-- R155: `FAULT` gets set exactly by the LENPROG step of a request of length zero, which is a READ or a WRITE; that step
writes `FAULT`, `CAUSE` and `SEQ`, makes no access and changes nothing else (R156, R161). -/
def Obligations.FaultComesOnlyFromAZeroLength : Prop :=
  ∀ s : State, s.Inv → s.resetIn = false → s.fault = false →
    ((∃ t, step s = .next t ∧ t.fault = true) ↔ s.seq = .lenprog ∧ s.len = 0) ∧
    ∀ t, step s = .next t → t.fault = true →
      (s.d.op = .read ∨ s.d.op = .write) ∧ t = { s with fault := true, cause := 1, seq := .faulted }

/-! ### Invariants and whole-machine rules -/

/-- Every step keeps the invariant: the latch's arguments fit, `IDX <= LEN`, the sequencer state belongs to the request, the
fault record agrees with `SEQ`, the buffer is canonical, every access is one the block may make, and the register addresses
are distinct multiples of 4 (R44). -/
def Obligations.StepKeepsTheInvariant : Prop :=
  ∀ s t : State, s.Inv → step s = .next t → t.Inv

/-- The invariant holds after reset. -/
def Obligations.ResetMeetsTheInvariant : Prop := State.reset.Inv

/-- From a state that meets the invariant `step` answers a next state everywhere but in FAULTED, never a refusal and never a
stop of its own (R113), and in FAULTED too when reset is asserted (R173). R196 gives the block a step in every state but
FAULTED and the accepting states with no request offered. That `step` there answers the same state is the model's reading of
R114 ("nothing changes") and R130 ("otherwise", "same") (DEDUCED, log 15). -/
def Obligations.EveryStepCompletesOutsideFaulted : Prop :=
  ∀ s : State, s.Inv → s.resetIn = true ∨ s.seq ≠ .faulted → ∃ t, step s = .next t

/-- The transition table R130 is complete: every step without reset is one of its arcs, with that arc's condition, its target
and exactly its access. An accepting state is left exactly when a well-formed request stands at the port. -/
def Obligations.EveryStepIsAnArcOfTheTransitionTable : Prop :=
  ∀ s t : State, s.Inv → s.resetIn = false → step s = .next t →
    ∃ es, Arc s t.seq es ∧ t.trace = s.trace ++ es

/-- The latch and `LEN` are written by the acceptance step and by no other step; `IDX` moves only by one, in RD_POP and
WR_PUSH (R20, R21). -/
def Obligations.LatchIsWrittenOnlyByAcceptance : Prop :=
  ∀ s t : State, s.resetIn = false → step s = .next t → (s.seq.accepting = true → t.seq ≠ .busywait) →
    t.d = s.d ∧ t.len = s.len ∧
      (t.idx = s.idx ∨ ((s.seq = .rdPop ∨ s.seq = .wrPush) ∧ t.idx = s.idx + 1))

/-- With a request in flight BUF is written only in RD_POP, at `IDX` and nowhere else (R53, R58, R61). In an accepting state it
changes only by being named: BUF is the host's and named at acceptance (R37, R114), and that an accepted READ or WRITE names it
by the bytes of its offer is the model's choice (DESIGN CHOICE, log 12). -/
def Obligations.BufferIsWrittenOnlyByReadPop : Prop :=
  ∀ s t : State, Memory.wf s.buf = true → step s = .next t →
    (s.seq.accepting = false →
      (s.seq ≠ .rdPop → t.buf = s.buf) ∧ ∀ a, a ≠ s.idx.toNat → Memory.read t.buf a = Memory.read s.buf a) ∧
    (s.seq.accepting = true → t.buf ≠ s.buf →
      t.seq = .busywait ∧ (t.d.op = .read ∨ t.d.op = .write) ∧
        ∃ o rest bs, s.port = o :: rest ∧ o.buf = some bs ∧
          ∀ (k : Nat) (b : Byte), bs[k]? = some b → Memory.read t.buf k = b)

/-- No step reads the peripheral's registers or whether it was launched: states that differ only there step alike (R35). -/
def Obligations.BlockNeverReadsThePeripheral : Prop :=
  ∀ (s t : State) (p : Periph), step s = .next t → ∃ q : Periph, step { s with periph := p } = .next { t with periph := q }

/-- No rule reads the latch between reset and the first acceptance (R39): in IDLE, states that differ only in the latch step to
the same state when a request is accepted, and otherwise nothing happens. -/
def Obligations.LatchIsNotReadBeforeAcceptance : Prop :=
  ∀ (s t : State) (d : Latch), s.resetIn = false → s.seq = .idle → step s = .next t →
    (t = s ∧ step { s with d := d } = .next { s with d := d }) ∨
    (t.seq = .busywait ∧ step { s with d := d } = .next t)

/-! ### Whole requests (R133; the premises `s.Inv`, `SEQ = BUSYWAIT` and an empty port say that the request has just been
accepted and no other is offered) -/

/-- A CMD that reaches CMD_COMPLETE has made exactly the accesses of R133, the configuration writes in the order ABR, CCR, AR
(R107), and BUF is untouched. -/
def Obligations.CompletedCommandHasItsTrace : Prop :=
  ∀ s t : State, s.Inv → s.seq = .busywait → s.d.op = .cmd → s.port = [] → s.resetIn = false →
    Reaches s t → t.seq = .cmdComplete →
    t.buf = s.buf ∧ ∃ w, cmdTrace s.params s.d w ∧ t.trace = s.trace ++ w

/-- A READ that reaches DATA_COMPLETE has made exactly the accesses of R133, and `BUF[i]` is the byte answered by its `i`-th
read of DR, every other byte of the buffer as before (R141). -/
def Obligations.CompletedReadFillsTheBuffer : Prop :=
  ∀ s t : State, s.Inv → s.seq = .busywait → s.d.op = .read → s.port = [] → s.resetIn = false →
    Reaches s t → t.seq = .dataComplete →
    (∀ a, s.len.toNat ≤ a → Memory.read t.buf a = Memory.read s.buf a) ∧ t.idx = s.len ∧
      ∃ w, readTrace s.params s.d s.len (bufBytes t.buf s.len.toNat) w ∧ t.trace = s.trace ++ w

/-- A WRITE that reaches DATA_COMPLETE has made exactly the accesses of R133: the bytes of BUF in order, each after a poll that
saw FTF, then a wait that saw TCF; BUF is unchanged (R146). -/
def Obligations.CompletedWriteSendsTheBuffer : Prop :=
  ∀ s t : State, s.Inv → s.seq = .busywait → s.d.op = .write → s.port = [] → s.resetIn = false →
    Reaches s t → t.seq = .dataComplete →
    t.buf = s.buf ∧ t.idx = s.len ∧
      ∃ w, writeTrace s.params s.d s.len (bufBytes s.buf s.len.toNat) w ∧ t.trace = s.trace ++ w

/-- A MAP that reaches MAPPED_ACTIVE has made its busy-wait and the three configuration writes and nothing else: zero
completion polls (R151). -/
def Obligations.MappedRequestHasNoCompletionPoll : Prop :=
  ∀ s t : State, s.Inv → s.seq = .busywait → s.d.op = .map → s.port = [] → s.resetIn = false →
    Reaches s t → t.seq = .mappedActive →
    t.buf = s.buf ∧ ∃ w, mapTrace s.params s.d w ∧ t.trace = s.trace ++ w

/-- A zero-length READ or WRITE that reaches FAULTED has the trace of its busy-wait and nothing else: no register is written
(R117, R133). -/
def Obligations.ZeroLengthRequestWritesNothing : Prop :=
  ∀ s t : State, s.Inv → s.seq = .busywait → s.port = [] → s.resetIn = false → Reaches s t → t.seq = .faulted →
    s.len = 0 ∧ t.buf = s.buf ∧ t.periph = s.periph ∧ ∃ w, flagWait s.params.sr .busywait w ∧ t.trace = s.trace ++ w

/-- A polling state is left when the environment's liveness premise holds (R195): some coming SR answer ends the poll, so the
block gets to the poll's next state, and the flag-wait is all that happens on the way. -/
def Obligations.PollEndsUnderItsLivenessPremise : Prop :=
  ∀ s : State, s.resetIn = false → s.seq.polling = true → s.Live s.seq →
    ∃ t, Reaches s t ∧ t.seq = pollNext s ∧ t.d = s.d ∧ t.len = s.len ∧ t.idx = s.idx ∧ t.buf = s.buf ∧
      t.periph = s.periph ∧ t.fault = s.fault ∧ ∃ w, flagWait s.params.sr s.seq w ∧ t.trace = s.trace ++ w

/-- R132: waiting is unbounded: however many answers show the unwanted flag value, the block is still in the same polling state
after reading them all, with nothing but those reads done. -/
def Obligations.WaitingIsUnbounded : Prop :=
  ∀ (s : State) (k : Nat), s.resetIn = false → s.seq.polling = true →
    (∀ n < k, pollEnds s.params.sr s.seq (s.srAnswerAt n) = false) →
    ∃ t, Reaches s t ∧ t.seq = s.seq ∧ t.fault = s.fault ∧
      t.trace = s.trace ++ (List.range k).map (fun n => srRead (s.srAnswerAt n))

/-- A READ ends when the environment answers as a flash that delivers its bytes: after any number of busy reads and any number
of fruitless polls before each byte, the block is in DATA_COMPLETE and BUF holds the delivered bytes (R140, R195). -/
def Obligations.ReadReachesDataComplete : Prop :=
  ∀ (s : State) (waits : List Word) (clear : Word) (groups : List (List Word × Word × Byte)) (sr : List Word)
    (dr : List Byte),
    s.Inv → s.resetIn = false → s.seq = .busywait → s.d.op = .read → s.len.toNat = groups.length → groups ≠ [] →
    (∀ v ∈ waits, srBusy s.params.sr v = true) → srBusy s.params.sr clear = false →
    (∀ g ∈ groups, (∀ v ∈ g.1, srFtf s.params.sr v = false ∧ srTcf s.params.sr v = false) ∧
      (srFtf s.params.sr g.2.1 = true ∨ srTcf s.params.sr g.2.1 = true)) →
    s.srScript = waits ++ [clear] ++ groups.flatMap (fun g => g.1 ++ [g.2.1]) ++ sr →
    s.drScript = groups.map (fun g => g.2.2) ++ dr →
    ∃ t, Reaches s t ∧ t.seq = .dataComplete ∧ bufBytes t.buf s.len.toNat = groups.map (fun g => g.2.2)

/-- A WRITE ends when the environment shows room for each byte and then transfer-complete (R145, R195). -/
def Obligations.WriteReachesDataComplete : Prop :=
  ∀ (s : State) (waits : List Word) (clear : Word) (groups : List (List Word × Word)) (drain : List Word)
    (done : Word) (sr : List Word),
    s.Inv → s.resetIn = false → s.seq = .busywait → s.d.op = .write → s.len.toNat = groups.length → groups ≠ [] →
    (∀ v ∈ waits, srBusy s.params.sr v = true) → srBusy s.params.sr clear = false →
    (∀ g ∈ groups, (∀ v ∈ g.1, srFtf s.params.sr v = false) ∧ srFtf s.params.sr g.2 = true) →
    (∀ v ∈ drain, srTcf s.params.sr v = false) → srTcf s.params.sr done = true →
    s.srScript = waits ++ [clear] ++ groups.flatMap (fun g => g.1 ++ [g.2]) ++ drain ++ [done] ++ sr →
    ∃ t, Reaches s t ∧ t.seq = .dataComplete ∧ t.buf = s.buf

/-- A CMD ends when the environment shows BUSY clear and then transfer-complete (R136, R195). A MAP ends when it shows BUSY
clear, and reads SR no more (R150, R151, R195). -/
def Obligations.CommandAndMapReachTheirEnds : Prop :=
  (∀ (s : State) (waits : List Word) (clear : Word) (poll : List Word) (done : Word) (sr : List Word),
    s.Inv → s.resetIn = false → s.seq = .busywait → s.d.op = .cmd →
    (∀ v ∈ waits, srBusy s.params.sr v = true) → srBusy s.params.sr clear = false →
    (∀ v ∈ poll, srTcf s.params.sr v = false) → srTcf s.params.sr done = true →
    s.srScript = waits ++ [clear] ++ poll ++ [done] ++ sr →
    ∃ t, Reaches s t ∧ t.seq = .cmdComplete ∧ t.srScript = sr) ∧
  ∀ (s : State) (waits : List Word) (clear : Word) (sr : List Word),
    s.Inv → s.resetIn = false → s.seq = .busywait → s.d.op = .map →
    (∀ v ∈ waits, srBusy s.params.sr v = true) → srBusy s.params.sr clear = false →
    s.srScript = waits ++ [clear] ++ sr →
    ∃ t, Reaches s t ∧ t.seq = .mappedActive ∧ t.srScript = sr

/-! ### The parameters (00_scope.md R6) -/

/-- The parameters are arguments (R6; R37, "Not state, but parameters of the step relation"): no step changes them, and under
every address map that keeps the six registers apart at multiples of 4 an access decodes from its register's address as it
does from its name, while an address of no register is no access (R34, R41, R50, R78). Every register's address is a multiple
of 4 in a state that meets the invariant, and a 4-byte access at another address is none under any map (R44). -/
def Obligations.ParametersAreArguments : Prop :=
  (∀ s t : State, step s = .next t → t.params = s.params) ∧
  (∀ s : State, s.Inv → ∀ r : Reg, regAddr s.params.addr r % 4 = 0) ∧
  (∀ (m : Config.AddressMap) (dir : Dir) (r : Reg), regAddr m r % 4 ≠ 0 →
    decodeBus m dir (regAddr m r) 4 = .refused .misaligned) ∧
  ∀ m : Config.AddressMap, m.wf →
    (∀ a : Access, decodeBus m a.dir (regAddr m a.reg) a.bytes = decode (.access a)) ∧
    ∀ (dir : Dir) (addr bytes : Nat), (∀ r : Reg, regAddr m r ≠ addr) →
      decodeBus m dir addr bytes = .refused .noSuchAccess
end

