-- ==== Sys2Proof/Laws/Bits.lean ====
section
/-! SUPPORT. Bit fields: a field of an OR is the OR of the fields, a placed value is read back at its place and reads as zero
at every disjoint place; and what follows for the codes. -/

namespace Sys2Proof.Machine

@[simp] theorem field_or (v w : Word) (p n : Nat) : field (v ||| w) p n = field v p n ||| field w p n := by
  simp [field, BitVec.extractLsb'_or]

theorem field_place_same {n : Nat} (v : BitVec n) (p : Nat) (h : p + n ≤ 32) : field (place v p) p n = v := by
  ext i hi
  simp [field, place, hi, show p + i < 32 by omega]

theorem field_place_disjoint {m : Nat} (v : BitVec m) (p q n : Nat) (h : p + m ≤ q ∨ q + n ≤ p) :
    field (place v p) q n = 0 := by
  ext i hi
  simp [field, place]
  intro _ _ _
  apply BitVec.getLsbD_of_ge
  omega

theorem bit_place_disjoint {m : Nat} (v : BitVec m) (p q : Nat) (h : p + m ≤ q ∨ q < p) :
    bit (place v p) q = false := by
  simp [bit, place]
  intro _ _ _
  apply BitVec.getLsbD_of_ge
  omega

@[simp] theorem bit_or (v w : Word) (p : Nat) : bit (v ||| w) p = (bit v p || bit w p) := by simp [bit]

theorem bit_place_flag (b : Bool) (p : Nat) (h : p < 32) : bit (place (flagBit b) p) p = b := by
  simp [bit, place, flagBit, h]

theorem lineOfCode_lineCode (l : LineWidth) : lineOfCode (lineCode l) = l := by cases l <;> decide

theorem lineCode_lineOfCode (b : BitVec 2) : lineCode (lineOfCode b) = b := by revert b; decide

theorem widthOfField_widthField (w : ByteWidth) : widthOfField (widthField w) = w := by cases w <;> decide

theorem widthField_widthOfField (b : BitVec 2) : widthField (widthOfField b) = b := by revert b; decide

theorem ddrOfCode_ddrCode (m : DdrMode) : ddrOfCode (ddrCode m) = some m := by cases m <;> decide

theorem opOfCode_opCode (o : ReqKind) : opOfCode (opCode o) = o := by cases o <;> decide

theorem opCode_opOfCode (b : BitVec 2) : opCode (opOfCode b) = b := by revert b; decide

/-- Masking to the byte width keeps a value modulo `2^(8w)` (R70, R87). -/
theorem and_widthMask_toNat (v : Word) (w : ByteWidth) : (v &&& widthMask w).toNat = v.toNat % 2 ^ (8 * w.bytes) := by
  cases w <;>
    simp only [widthMask, BitVec.toNat_and, ByteWidth.bytes, BitVec.ofNat_eq_ofNat, BitVec.toNat_ofNat]
  · exact Nat.and_two_pow_sub_one_eq_mod v.toNat 8
  · exact Nat.and_two_pow_sub_one_eq_mod v.toNat 16
  · exact Nat.and_two_pow_sub_one_eq_mod v.toNat 24
  · exact Nat.and_two_pow_sub_one_eq_mod v.toNat 32

/-- A masked argument fits its width. -/
theorem maskedArgument_wf (w : ByteWidth) (v : Word) : (maskedArgument w v).wf = true := by
  simp only [Argument.wf, maskedArgument, and_widthMask_toNat, decide_eq_true_eq]
  exact Nat.mod_lt _ (by positivity)

/-- An argument that fits its width is not changed by the mask. -/
theorem maskedArgument_self {a : Argument} (h : a.wf = true) : maskedArgument a.width a.value = a := by
  obtain ⟨w, v⟩ := a
  simp only [Argument.wf, decide_eq_true_eq] at h
  simp only [maskedArgument, Argument.mk.injEq, true_and]
  apply BitVec.eq_of_toNat_eq
  rw [and_widthMask_toNat, Nat.mod_eq_of_lt h]

end Sys2Proof.Machine
end

