-- ==== Sys2Proof/Laws/Memory.lean ====
section
/-! SUPPORT. The laws of the payload buffer: reading after writing, and that every operation keeps the canonical form. -/

namespace Sys2Proof.Machine

@[simp] theorem Memory.read_nil (a : Nat) : Memory.read [] a = Memory.blank := rfl

theorem Memory.read_cons (k : Nat) (c : Byte) (m : Memory) (a : Nat) :
    Memory.read ((k, c) :: m) a = if k = a then c else Memory.read m a := rfl

theorem Memory.wfFrom_cons (lo k : Nat) (c : Byte) (m : Memory) :
    Memory.wfFrom lo ((k, c) :: m) = true ↔ lo ≤ k ∧ c ≠ Memory.blank ∧ Memory.wfFrom (k + 1) m = true := by
  simp [Memory.wfFrom, and_assoc]

theorem Memory.wfFrom_mono {lo lo' : Nat} (h : lo' ≤ lo) {m : Memory} (hm : Memory.wfFrom lo m = true) :
    Memory.wfFrom lo' m = true := by
  cases m with
  | nil => rfl
  | cons p m =>
    obtain ⟨k, c⟩ := p
    rw [Memory.wfFrom_cons] at hm ⊢
    exact ⟨h.trans hm.1, hm.2⟩

/-- Below the first listed index nothing is listed. -/
theorem Memory.read_below {lo a : Nat} {m : Memory} (hm : Memory.wfFrom lo m = true) (h : a < lo) :
    Memory.read m a = Memory.blank := by
  induction m generalizing lo with
  | nil => rfl
  | cons p m ih =>
    obtain ⟨k, c⟩ := p
    obtain ⟨hk, -, hm⟩ := (Memory.wfFrom_cons _ _ _ _).1 hm
    rw [Memory.read_cons, if_neg (by omega), ih hm (by omega)]

theorem Memory.cons_wfFrom {lo a : Nat} {b : Byte} {m : Memory} (h : lo ≤ a)
    (hm : Memory.wfFrom (a + 1) m = true) : Memory.wfFrom lo (Memory.cons a b m) = true := by
  unfold Memory.cons
  split
  · exact Memory.wfFrom_mono (by omega) hm
  · next hb => exact (Memory.wfFrom_cons _ _ _ _).2 ⟨h, hb, hm⟩

theorem Memory.write_wfFrom {lo a : Nat} {b : Byte} {m : Memory} (h : lo ≤ a)
    (hm : Memory.wfFrom lo m = true) : Memory.wfFrom lo (Memory.write m a b) = true := by
  induction m generalizing lo with
  | nil => exact Memory.cons_wfFrom h rfl
  | cons p m ih =>
    obtain ⟨k, c⟩ := p
    obtain ⟨hk, hc, hm⟩ := (Memory.wfFrom_cons _ _ _ _).1 hm
    unfold Memory.write
    split
    · exact Memory.cons_wfFrom h ((Memory.wfFrom_cons _ _ _ _).2 ⟨by omega, hc, hm⟩)
    · split
      · next hak => exact Memory.cons_wfFrom h (hak ▸ hm)
      · exact (Memory.wfFrom_cons _ _ _ _).2 ⟨hk, hc, ih (by omega) hm⟩

/-- A write keeps the canonical form. -/
theorem Memory.write_wf {m : Memory} (hm : Memory.wf m = true) (a : Nat) (b : Byte) :
    Memory.wf (Memory.write m a b) = true := Memory.write_wfFrom (Nat.zero_le a) hm

theorem Memory.ofBytesFrom_wf (bs : List Byte) (i : Nat) : Memory.wfFrom i (Memory.ofBytesFrom i bs) = true := by
  induction bs generalizing i with
  | nil => rfl
  | cons b bs ih => exact Memory.cons_wfFrom (Nat.le_refl i) (ih (i + 1))

/-- The buffer that a host names is in canonical form. -/
theorem Memory.ofBytes_wf (bs : List Byte) : Memory.wf (Memory.ofBytes bs) = true := Memory.ofBytesFrom_wf bs 0

theorem Memory.read_consEntry {a : Nat} {b : Byte} {m : Memory} (hm : Memory.wfFrom (a + 1) m = true) (x : Nat) :
    Memory.read (Memory.cons a b m) x = if x = a then b else Memory.read m x := by
  unfold Memory.cons
  split
  · next hb =>
    split
    · next hx => rw [Memory.read_below hm (by omega), hb]
    · rfl
  · rw [Memory.read_cons]
    by_cases hx : x = a
    · rw [if_pos hx.symm, if_pos hx]
    · rw [if_neg (Ne.symm hx), if_neg hx]

theorem Memory.read_write_from {lo : Nat} {m : Memory} (hm : Memory.wfFrom lo m = true) (a : Nat) (b : Byte)
    (x : Nat) : Memory.read (Memory.write m a b) x = if x = a then b else Memory.read m x := by
  induction m generalizing lo with
  | nil => exact Memory.read_consEntry rfl x
  | cons p m ih =>
    obtain ⟨k, c⟩ := p
    obtain ⟨hk, hc, hm⟩ := (Memory.wfFrom_cons _ _ _ _).1 hm
    unfold Memory.write
    split
    · next hak => exact Memory.read_consEntry ((Memory.wfFrom_cons _ _ _ _).2 ⟨by omega, hc, hm⟩) x
    · split
      · next hak =>
        subst hak
        rw [Memory.read_consEntry hm, Memory.read_cons]
        by_cases hx : x = a
        · simp [hx]
        · simp [hx, Ne.symm hx]
      · next hlt hne =>
        rw [Memory.read_cons, Memory.read_cons, ih hm]
        by_cases hkx : k = x
        · rw [if_pos hkx, if_pos hkx, if_neg (by omega)]
        · rw [if_neg hkx, if_neg hkx]

/-- Reading after writing: the byte written at its index, every other byte as before. -/
theorem Memory.read_write {m : Memory} (hm : Memory.wf m = true) (a : Nat) (b : Byte) (x : Nat) :
    Memory.read (Memory.write m a b) x = if x = a then b else Memory.read m x := Memory.read_write_from hm a b x

theorem Memory.read_ofBytesFrom (bs : List Byte) (i x : Nat) :
    Memory.read (Memory.ofBytesFrom i bs) x = if x < i then Memory.blank else (bs[x - i]?).getD Memory.blank := by
  induction bs generalizing i with
  | nil => simp [Memory.ofBytesFrom]
  | cons b bs ih =>
    rw [Memory.ofBytesFrom, Memory.read_consEntry (Memory.ofBytesFrom_wf bs (i + 1)), ih]
    by_cases hx : x = i
    · subst hx; simp
    · by_cases hlt : x < i
      · simp [hx, hlt, show x < i + 1 by omega]
      · obtain ⟨n, rfl⟩ : ∃ n, x = i + (n + 1) := ⟨x - i - 1, by omega⟩
        simp [show i + (n + 1) - i = n + 1 by omega, show i + (n + 1) - (i + 1) = n by omega,
          show ¬i + (n + 1) < i + 1 by omega]

/-- Byte `x` of the buffer that a host names is the `x`-th byte it gives. -/
theorem Memory.read_ofBytes (bs : List Byte) (x : Nat) :
    Memory.read (Memory.ofBytes bs) x = (bs[x]?).getD Memory.blank := by
  simp [Memory.ofBytes, Memory.read_ofBytesFrom]

end Sys2Proof.Machine
end

