-- ==== Sys2Proof/Laws/State.lean ====
section
/-! SUPPORT. One lemma per field per update of the state: what each named operation leaves in each field. -/

namespace Sys2Proof.Machine

/-! ### emit -/

@[simp] theorem State.emit_params (s : State) (e : Event) : (s.emit e).params = s.params := rfl
@[simp] theorem State.emit_d (s : State) (e : Event) : (s.emit e).d = s.d := rfl
@[simp] theorem State.emit_len (s : State) (e : Event) : (s.emit e).len = s.len := rfl
@[simp] theorem State.emit_idx (s : State) (e : Event) : (s.emit e).idx = s.idx := rfl
@[simp] theorem State.emit_seq (s : State) (e : Event) : (s.emit e).seq = s.seq := rfl
@[simp] theorem State.emit_fault (s : State) (e : Event) : (s.emit e).fault = s.fault := rfl
@[simp] theorem State.emit_cause (s : State) (e : Event) : (s.emit e).cause = s.cause := rfl
@[simp] theorem State.emit_buf (s : State) (e : Event) : (s.emit e).buf = s.buf := rfl
@[simp] theorem State.emit_periph (s : State) (e : Event) : (s.emit e).periph = s.periph := rfl
@[simp] theorem State.emit_port (s : State) (e : Event) : (s.emit e).port = s.port := rfl
@[simp] theorem State.emit_resetIn (s : State) (e : Event) : (s.emit e).resetIn = s.resetIn := rfl
@[simp] theorem State.emit_srScript (s : State) (e : Event) : (s.emit e).srScript = s.srScript := rfl
@[simp] theorem State.emit_srCount (s : State) (e : Event) : (s.emit e).srCount = s.srCount := rfl
@[simp] theorem State.emit_drScript (s : State) (e : Event) : (s.emit e).drScript = s.drScript := rfl
@[simp] theorem State.emit_drCount (s : State) (e : Event) : (s.emit e).drCount = s.drCount := rfl
@[simp] theorem State.emit_trace (s : State) (e : Event) : (s.emit e).trace = s.trace ++ [e] := rfl

/-! ### afterSrRead -/

@[simp] theorem State.afterSrRead_params (s : State) : (s.afterSrRead).params = s.params := rfl
@[simp] theorem State.afterSrRead_d (s : State) : (s.afterSrRead).d = s.d := rfl
@[simp] theorem State.afterSrRead_len (s : State) : (s.afterSrRead).len = s.len := rfl
@[simp] theorem State.afterSrRead_idx (s : State) : (s.afterSrRead).idx = s.idx := rfl
@[simp] theorem State.afterSrRead_seq (s : State) : (s.afterSrRead).seq = s.seq := rfl
@[simp] theorem State.afterSrRead_fault (s : State) : (s.afterSrRead).fault = s.fault := rfl
@[simp] theorem State.afterSrRead_cause (s : State) : (s.afterSrRead).cause = s.cause := rfl
@[simp] theorem State.afterSrRead_buf (s : State) : (s.afterSrRead).buf = s.buf := rfl
@[simp] theorem State.afterSrRead_periph (s : State) : (s.afterSrRead).periph = s.periph := rfl
@[simp] theorem State.afterSrRead_port (s : State) : (s.afterSrRead).port = s.port := rfl
@[simp] theorem State.afterSrRead_resetIn (s : State) : (s.afterSrRead).resetIn = s.resetIn := rfl
@[simp] theorem State.afterSrRead_srScript (s : State) : (s.afterSrRead).srScript = s.srScript.tail := rfl
@[simp] theorem State.afterSrRead_srCount (s : State) : (s.afterSrRead).srCount = s.srCount + 1 := rfl
@[simp] theorem State.afterSrRead_drScript (s : State) : (s.afterSrRead).drScript = s.drScript := rfl
@[simp] theorem State.afterSrRead_drCount (s : State) : (s.afterSrRead).drCount = s.drCount := rfl
@[simp] theorem State.afterSrRead_trace (s : State) : (s.afterSrRead).trace = s.trace ++ [.rd .sr (.word s.srAnswer)] := rfl

/-! ### afterDrRead -/

@[simp] theorem State.afterDrRead_params (s : State) : (s.afterDrRead).params = s.params := rfl
@[simp] theorem State.afterDrRead_d (s : State) : (s.afterDrRead).d = s.d := rfl
@[simp] theorem State.afterDrRead_len (s : State) : (s.afterDrRead).len = s.len := rfl
@[simp] theorem State.afterDrRead_idx (s : State) : (s.afterDrRead).idx = s.idx := rfl
@[simp] theorem State.afterDrRead_seq (s : State) : (s.afterDrRead).seq = s.seq := rfl
@[simp] theorem State.afterDrRead_fault (s : State) : (s.afterDrRead).fault = s.fault := rfl
@[simp] theorem State.afterDrRead_cause (s : State) : (s.afterDrRead).cause = s.cause := rfl
@[simp] theorem State.afterDrRead_buf (s : State) : (s.afterDrRead).buf = s.buf := rfl
@[simp] theorem State.afterDrRead_periph (s : State) : (s.afterDrRead).periph = s.periph := rfl
@[simp] theorem State.afterDrRead_port (s : State) : (s.afterDrRead).port = s.port := rfl
@[simp] theorem State.afterDrRead_resetIn (s : State) : (s.afterDrRead).resetIn = s.resetIn := rfl
@[simp] theorem State.afterDrRead_srScript (s : State) : (s.afterDrRead).srScript = s.srScript := rfl
@[simp] theorem State.afterDrRead_srCount (s : State) : (s.afterDrRead).srCount = s.srCount := rfl
@[simp] theorem State.afterDrRead_drScript (s : State) : (s.afterDrRead).drScript = s.drScript.tail := rfl
@[simp] theorem State.afterDrRead_drCount (s : State) : (s.afterDrRead).drCount = s.drCount + 1 := rfl
@[simp] theorem State.afterDrRead_trace (s : State) : (s.afterDrRead).trace = s.trace ++ [.rd .dr (.byte s.drAnswer)] := rfl

/-! ### regWrite -/

@[simp] theorem State.regWrite_params (s : State) (r : CfgReg) (v : Word) : (s.regWrite r v).params = s.params := rfl
@[simp] theorem State.regWrite_d (s : State) (r : CfgReg) (v : Word) : (s.regWrite r v).d = s.d := rfl
@[simp] theorem State.regWrite_len (s : State) (r : CfgReg) (v : Word) : (s.regWrite r v).len = s.len := rfl
@[simp] theorem State.regWrite_idx (s : State) (r : CfgReg) (v : Word) : (s.regWrite r v).idx = s.idx := rfl
@[simp] theorem State.regWrite_seq (s : State) (r : CfgReg) (v : Word) : (s.regWrite r v).seq = s.seq := rfl
@[simp] theorem State.regWrite_fault (s : State) (r : CfgReg) (v : Word) : (s.regWrite r v).fault = s.fault := rfl
@[simp] theorem State.regWrite_cause (s : State) (r : CfgReg) (v : Word) : (s.regWrite r v).cause = s.cause := rfl
@[simp] theorem State.regWrite_buf (s : State) (r : CfgReg) (v : Word) : (s.regWrite r v).buf = s.buf := rfl
@[simp] theorem State.regWrite_periph (s : State) (r : CfgReg) (v : Word) : (s.regWrite r v).periph = Periph.write s.d r v s.periph := rfl
@[simp] theorem State.regWrite_port (s : State) (r : CfgReg) (v : Word) : (s.regWrite r v).port = s.port := rfl
@[simp] theorem State.regWrite_resetIn (s : State) (r : CfgReg) (v : Word) : (s.regWrite r v).resetIn = s.resetIn := rfl
@[simp] theorem State.regWrite_srScript (s : State) (r : CfgReg) (v : Word) : (s.regWrite r v).srScript = s.srScript := rfl
@[simp] theorem State.regWrite_srCount (s : State) (r : CfgReg) (v : Word) : (s.regWrite r v).srCount = s.srCount := rfl
@[simp] theorem State.regWrite_drScript (s : State) (r : CfgReg) (v : Word) : (s.regWrite r v).drScript = s.drScript := rfl
@[simp] theorem State.regWrite_drCount (s : State) (r : CfgReg) (v : Word) : (s.regWrite r v).drCount = s.drCount := rfl
@[simp] theorem State.regWrite_trace (s : State) (r : CfgReg) (v : Word) : (s.regWrite r v).trace = s.trace ++ [.wr r.reg (.word v)] := rfl

/-! ### configWrite -/

@[simp] theorem State.configWrite_params (s : State) (r : CfgReg) (v : Word) (q : Seq) : (s.configWrite r v q).params = s.params := rfl
@[simp] theorem State.configWrite_d (s : State) (r : CfgReg) (v : Word) (q : Seq) : (s.configWrite r v q).d = s.d := rfl
@[simp] theorem State.configWrite_len (s : State) (r : CfgReg) (v : Word) (q : Seq) : (s.configWrite r v q).len = s.len := rfl
@[simp] theorem State.configWrite_idx (s : State) (r : CfgReg) (v : Word) (q : Seq) : (s.configWrite r v q).idx = s.idx := rfl
@[simp] theorem State.configWrite_seq (s : State) (r : CfgReg) (v : Word) (q : Seq) : (s.configWrite r v q).seq = q := rfl
@[simp] theorem State.configWrite_fault (s : State) (r : CfgReg) (v : Word) (q : Seq) : (s.configWrite r v q).fault = s.fault := rfl
@[simp] theorem State.configWrite_cause (s : State) (r : CfgReg) (v : Word) (q : Seq) : (s.configWrite r v q).cause = s.cause := rfl
@[simp] theorem State.configWrite_buf (s : State) (r : CfgReg) (v : Word) (q : Seq) : (s.configWrite r v q).buf = s.buf := rfl
@[simp] theorem State.configWrite_periph (s : State) (r : CfgReg) (v : Word) (q : Seq) : (s.configWrite r v q).periph = Periph.write s.d r v s.periph := rfl
@[simp] theorem State.configWrite_port (s : State) (r : CfgReg) (v : Word) (q : Seq) : (s.configWrite r v q).port = s.port := rfl
@[simp] theorem State.configWrite_resetIn (s : State) (r : CfgReg) (v : Word) (q : Seq) : (s.configWrite r v q).resetIn = s.resetIn := rfl
@[simp] theorem State.configWrite_srScript (s : State) (r : CfgReg) (v : Word) (q : Seq) : (s.configWrite r v q).srScript = s.srScript := rfl
@[simp] theorem State.configWrite_srCount (s : State) (r : CfgReg) (v : Word) (q : Seq) : (s.configWrite r v q).srCount = s.srCount := rfl
@[simp] theorem State.configWrite_drScript (s : State) (r : CfgReg) (v : Word) (q : Seq) : (s.configWrite r v q).drScript = s.drScript := rfl
@[simp] theorem State.configWrite_drCount (s : State) (r : CfgReg) (v : Word) (q : Seq) : (s.configWrite r v q).drCount = s.drCount := rfl
@[simp] theorem State.configWrite_trace (s : State) (r : CfgReg) (v : Word) (q : Seq) : (s.configWrite r v q).trace = s.trace ++ [.wr r.reg (.word v)] := rfl

/-! ### regWriteDr -/

@[simp] theorem State.regWriteDr_params (s : State) (b : Byte) : (s.regWriteDr b).params = s.params := rfl
@[simp] theorem State.regWriteDr_d (s : State) (b : Byte) : (s.regWriteDr b).d = s.d := rfl
@[simp] theorem State.regWriteDr_len (s : State) (b : Byte) : (s.regWriteDr b).len = s.len := rfl
@[simp] theorem State.regWriteDr_idx (s : State) (b : Byte) : (s.regWriteDr b).idx = s.idx := rfl
@[simp] theorem State.regWriteDr_seq (s : State) (b : Byte) : (s.regWriteDr b).seq = s.seq := rfl
@[simp] theorem State.regWriteDr_fault (s : State) (b : Byte) : (s.regWriteDr b).fault = s.fault := rfl
@[simp] theorem State.regWriteDr_cause (s : State) (b : Byte) : (s.regWriteDr b).cause = s.cause := rfl
@[simp] theorem State.regWriteDr_buf (s : State) (b : Byte) : (s.regWriteDr b).buf = s.buf := rfl
@[simp] theorem State.regWriteDr_periph (s : State) (b : Byte) : (s.regWriteDr b).periph = { s.periph with launched := s.periph.launched || decide (launchPoint s.d = .firstWriteDr) } := rfl
@[simp] theorem State.regWriteDr_port (s : State) (b : Byte) : (s.regWriteDr b).port = s.port := rfl
@[simp] theorem State.regWriteDr_resetIn (s : State) (b : Byte) : (s.regWriteDr b).resetIn = s.resetIn := rfl
@[simp] theorem State.regWriteDr_srScript (s : State) (b : Byte) : (s.regWriteDr b).srScript = s.srScript := rfl
@[simp] theorem State.regWriteDr_srCount (s : State) (b : Byte) : (s.regWriteDr b).srCount = s.srCount := rfl
@[simp] theorem State.regWriteDr_drScript (s : State) (b : Byte) : (s.regWriteDr b).drScript = s.drScript := rfl
@[simp] theorem State.regWriteDr_drCount (s : State) (b : Byte) : (s.regWriteDr b).drCount = s.drCount := rfl
@[simp] theorem State.regWriteDr_trace (s : State) (b : Byte) : (s.regWriteDr b).trace = s.trace ++ [.wr .dr (.byte b)] := rfl

/-! ### poll -/

@[simp] theorem State.poll_params (s : State) (q : Seq) : (s.poll q).params = s.params := rfl
@[simp] theorem State.poll_d (s : State) (q : Seq) : (s.poll q).d = s.d := rfl
@[simp] theorem State.poll_len (s : State) (q : Seq) : (s.poll q).len = s.len := rfl
@[simp] theorem State.poll_idx (s : State) (q : Seq) : (s.poll q).idx = s.idx := rfl
@[simp] theorem State.poll_seq (s : State) (q : Seq) : (s.poll q).seq = if pollEnds s.params.sr s.seq s.srAnswer then q else s.seq := rfl
@[simp] theorem State.poll_fault (s : State) (q : Seq) : (s.poll q).fault = s.fault := rfl
@[simp] theorem State.poll_cause (s : State) (q : Seq) : (s.poll q).cause = s.cause := rfl
@[simp] theorem State.poll_buf (s : State) (q : Seq) : (s.poll q).buf = s.buf := rfl
@[simp] theorem State.poll_periph (s : State) (q : Seq) : (s.poll q).periph = s.periph := rfl
@[simp] theorem State.poll_port (s : State) (q : Seq) : (s.poll q).port = s.port := rfl
@[simp] theorem State.poll_resetIn (s : State) (q : Seq) : (s.poll q).resetIn = s.resetIn := rfl
@[simp] theorem State.poll_srScript (s : State) (q : Seq) : (s.poll q).srScript = s.srScript.tail := rfl
@[simp] theorem State.poll_srCount (s : State) (q : Seq) : (s.poll q).srCount = s.srCount + 1 := rfl
@[simp] theorem State.poll_drScript (s : State) (q : Seq) : (s.poll q).drScript = s.drScript := rfl
@[simp] theorem State.poll_drCount (s : State) (q : Seq) : (s.poll q).drCount = s.drCount := rfl
@[simp] theorem State.poll_trace (s : State) (q : Seq) : (s.poll q).trace = s.trace ++ [.rd .sr (.word s.srAnswer)] := rfl

/-! ### advance -/

@[simp] theorem State.advance_params (s : State) (q r : Seq) : (s.advance q r).params = s.params := rfl
@[simp] theorem State.advance_d (s : State) (q r : Seq) : (s.advance q r).d = s.d := rfl
@[simp] theorem State.advance_len (s : State) (q r : Seq) : (s.advance q r).len = s.len := rfl
@[simp] theorem State.advance_idx (s : State) (q r : Seq) : (s.advance q r).idx = s.idx + 1 := rfl
@[simp] theorem State.advance_seq (s : State) (q r : Seq) : (s.advance q r).seq = if s.idx + 1 = s.len then r else q := rfl
@[simp] theorem State.advance_fault (s : State) (q r : Seq) : (s.advance q r).fault = s.fault := rfl
@[simp] theorem State.advance_cause (s : State) (q r : Seq) : (s.advance q r).cause = s.cause := rfl
@[simp] theorem State.advance_buf (s : State) (q r : Seq) : (s.advance q r).buf = s.buf := rfl
@[simp] theorem State.advance_periph (s : State) (q r : Seq) : (s.advance q r).periph = s.periph := rfl
@[simp] theorem State.advance_port (s : State) (q r : Seq) : (s.advance q r).port = s.port := rfl
@[simp] theorem State.advance_resetIn (s : State) (q r : Seq) : (s.advance q r).resetIn = s.resetIn := rfl
@[simp] theorem State.advance_srScript (s : State) (q r : Seq) : (s.advance q r).srScript = s.srScript := rfl
@[simp] theorem State.advance_srCount (s : State) (q r : Seq) : (s.advance q r).srCount = s.srCount := rfl
@[simp] theorem State.advance_drScript (s : State) (q r : Seq) : (s.advance q r).drScript = s.drScript := rfl
@[simp] theorem State.advance_drCount (s : State) (q r : Seq) : (s.advance q r).drCount = s.drCount := rfl
@[simp] theorem State.advance_trace (s : State) (q r : Seq) : (s.advance q r).trace = s.trace := rfl

/-! ### accept -/

@[simp] theorem State.accept_params (s : State) (l : Latch) (n : Word) : (s.accept l n).params = s.params := rfl
@[simp] theorem State.accept_d (s : State) (l : Latch) (n : Word) : (s.accept l n).d = l := rfl
@[simp] theorem State.accept_len (s : State) (l : Latch) (n : Word) : (s.accept l n).len = n := rfl
@[simp] theorem State.accept_idx (s : State) (l : Latch) (n : Word) : (s.accept l n).idx = 0 := rfl
@[simp] theorem State.accept_seq (s : State) (l : Latch) (n : Word) : (s.accept l n).seq = .busywait := rfl
@[simp] theorem State.accept_fault (s : State) (l : Latch) (n : Word) : (s.accept l n).fault = s.fault := rfl
@[simp] theorem State.accept_cause (s : State) (l : Latch) (n : Word) : (s.accept l n).cause = s.cause := rfl
@[simp] theorem State.accept_buf (s : State) (l : Latch) (n : Word) : (s.accept l n).buf = s.buf := rfl
@[simp] theorem State.accept_periph (s : State) (l : Latch) (n : Word) : (s.accept l n).periph = s.periph := rfl
@[simp] theorem State.accept_port (s : State) (l : Latch) (n : Word) : (s.accept l n).port = s.port := rfl
@[simp] theorem State.accept_resetIn (s : State) (l : Latch) (n : Word) : (s.accept l n).resetIn = s.resetIn := rfl
@[simp] theorem State.accept_srScript (s : State) (l : Latch) (n : Word) : (s.accept l n).srScript = s.srScript := rfl
@[simp] theorem State.accept_srCount (s : State) (l : Latch) (n : Word) : (s.accept l n).srCount = s.srCount := rfl
@[simp] theorem State.accept_drScript (s : State) (l : Latch) (n : Word) : (s.accept l n).drScript = s.drScript := rfl
@[simp] theorem State.accept_drCount (s : State) (l : Latch) (n : Word) : (s.accept l n).drCount = s.drCount := rfl
@[simp] theorem State.accept_trace (s : State) (l : Latch) (n : Word) : (s.accept l n).trace = s.trace := rfl

/-! ### takeFault -/

@[simp] theorem State.takeFault_params (s : State) (c : BitVec 2) : (s.takeFault c).params = s.params := rfl
@[simp] theorem State.takeFault_d (s : State) (c : BitVec 2) : (s.takeFault c).d = s.d := rfl
@[simp] theorem State.takeFault_len (s : State) (c : BitVec 2) : (s.takeFault c).len = s.len := rfl
@[simp] theorem State.takeFault_idx (s : State) (c : BitVec 2) : (s.takeFault c).idx = s.idx := rfl
@[simp] theorem State.takeFault_seq (s : State) (c : BitVec 2) : (s.takeFault c).seq = .faulted := rfl
@[simp] theorem State.takeFault_fault (s : State) (c : BitVec 2) : (s.takeFault c).fault = true := rfl
@[simp] theorem State.takeFault_cause (s : State) (c : BitVec 2) : (s.takeFault c).cause = c := rfl
@[simp] theorem State.takeFault_buf (s : State) (c : BitVec 2) : (s.takeFault c).buf = s.buf := rfl
@[simp] theorem State.takeFault_periph (s : State) (c : BitVec 2) : (s.takeFault c).periph = s.periph := rfl
@[simp] theorem State.takeFault_port (s : State) (c : BitVec 2) : (s.takeFault c).port = s.port := rfl
@[simp] theorem State.takeFault_resetIn (s : State) (c : BitVec 2) : (s.takeFault c).resetIn = s.resetIn := rfl
@[simp] theorem State.takeFault_srScript (s : State) (c : BitVec 2) : (s.takeFault c).srScript = s.srScript := rfl
@[simp] theorem State.takeFault_srCount (s : State) (c : BitVec 2) : (s.takeFault c).srCount = s.srCount := rfl
@[simp] theorem State.takeFault_drScript (s : State) (c : BitVec 2) : (s.takeFault c).drScript = s.drScript := rfl
@[simp] theorem State.takeFault_drCount (s : State) (c : BitVec 2) : (s.takeFault c).drCount = s.drCount := rfl
@[simp] theorem State.takeFault_trace (s : State) (c : BitVec 2) : (s.takeFault c).trace = s.trace := rfl

/-! ### applyReset -/

@[simp] theorem State.applyReset_params (s : State) : (s.applyReset).params = s.params := rfl
@[simp] theorem State.applyReset_d (s : State) : (s.applyReset).d = Latch.reset := rfl
@[simp] theorem State.applyReset_len (s : State) : (s.applyReset).len = 0 := rfl
@[simp] theorem State.applyReset_idx (s : State) : (s.applyReset).idx = 0 := rfl
@[simp] theorem State.applyReset_seq (s : State) : (s.applyReset).seq = .idle := rfl
@[simp] theorem State.applyReset_fault (s : State) : (s.applyReset).fault = false := rfl
@[simp] theorem State.applyReset_cause (s : State) : (s.applyReset).cause = 0 := rfl
@[simp] theorem State.applyReset_buf (s : State) : (s.applyReset).buf = s.buf := rfl
@[simp] theorem State.applyReset_periph (s : State) : (s.applyReset).periph = s.periph := rfl
@[simp] theorem State.applyReset_port (s : State) : (s.applyReset).port = s.port := rfl
@[simp] theorem State.applyReset_resetIn (s : State) : (s.applyReset).resetIn = false := rfl
@[simp] theorem State.applyReset_srScript (s : State) : (s.applyReset).srScript = s.srScript := rfl
@[simp] theorem State.applyReset_srCount (s : State) : (s.applyReset).srCount = s.srCount := rfl
@[simp] theorem State.applyReset_drScript (s : State) : (s.applyReset).drScript = s.drScript := rfl
@[simp] theorem State.applyReset_drCount (s : State) : (s.applyReset).drCount = s.drCount := rfl
@[simp] theorem State.applyReset_trace (s : State) : (s.applyReset).trace = [] := rfl

/-! ### takeOffer -/

@[simp] theorem State.takeOffer_params (s : State) (i : Instr) (o : Offer) (rest : List Offer) : (s.takeOffer i o rest).params = s.params := rfl
@[simp] theorem State.takeOffer_d (s : State) (i : Instr) (o : Offer) (rest : List Offer) : (s.takeOffer i o rest).d = s.d := rfl
@[simp] theorem State.takeOffer_len (s : State) (i : Instr) (o : Offer) (rest : List Offer) : (s.takeOffer i o rest).len = s.len := rfl
@[simp] theorem State.takeOffer_idx (s : State) (i : Instr) (o : Offer) (rest : List Offer) : (s.takeOffer i o rest).idx = s.idx := rfl
@[simp] theorem State.takeOffer_seq (s : State) (i : Instr) (o : Offer) (rest : List Offer) : (s.takeOffer i o rest).seq = s.seq := rfl
@[simp] theorem State.takeOffer_fault (s : State) (i : Instr) (o : Offer) (rest : List Offer) : (s.takeOffer i o rest).fault = s.fault := rfl
@[simp] theorem State.takeOffer_cause (s : State) (i : Instr) (o : Offer) (rest : List Offer) : (s.takeOffer i o rest).cause = s.cause := rfl
@[simp] theorem State.takeOffer_buf (s : State) (i : Instr) (o : Offer) (rest : List Offer) : (s.takeOffer i o rest).buf = offeredBuf i o s.buf := rfl
@[simp] theorem State.takeOffer_periph (s : State) (i : Instr) (o : Offer) (rest : List Offer) : (s.takeOffer i o rest).periph = s.periph := rfl
@[simp] theorem State.takeOffer_port (s : State) (i : Instr) (o : Offer) (rest : List Offer) : (s.takeOffer i o rest).port = rest := rfl
@[simp] theorem State.takeOffer_resetIn (s : State) (i : Instr) (o : Offer) (rest : List Offer) : (s.takeOffer i o rest).resetIn = s.resetIn := rfl
@[simp] theorem State.takeOffer_srScript (s : State) (i : Instr) (o : Offer) (rest : List Offer) : (s.takeOffer i o rest).srScript = s.srScript := rfl
@[simp] theorem State.takeOffer_srCount (s : State) (i : Instr) (o : Offer) (rest : List Offer) : (s.takeOffer i o rest).srCount = s.srCount := rfl
@[simp] theorem State.takeOffer_drScript (s : State) (i : Instr) (o : Offer) (rest : List Offer) : (s.takeOffer i o rest).drScript = s.drScript := rfl
@[simp] theorem State.takeOffer_drCount (s : State) (i : Instr) (o : Offer) (rest : List Offer) : (s.takeOffer i o rest).drCount = s.drCount := rfl
@[simp] theorem State.takeOffer_trace (s : State) (i : Instr) (o : Offer) (rest : List Offer) : (s.takeOffer i o rest).trace = s.trace := rfl

end Sys2Proof.Machine
end

