-- ==== Sys2Proof/Laws/Ops.lean ====
section
/-! SUPPORT. For each shared operation and each access kind, what it can do when it answers a next state. -/

namespace Sys2Proof.Machine

theorem State.bufRead_eq_some {s : State} {i : Word} {b : Byte} :
    s.bufRead i = some b ↔ i.toNat < s.len.toNat ∧ b = Memory.read s.buf i.toNat := by
  unfold State.bufRead
  split <;> simp_all [eq_comm]

theorem State.bufWrite_eq_some {s t : State} {i : Word} {b : Byte} :
    s.bufWrite i b = some t ↔
      i.toNat < s.len.toNat ∧ t = { s with buf := Memory.write s.buf i.toNat b } := by
  unfold State.bufWrite
  split <;> simp_all [eq_comm]

/-- Using up one SR answer moves every later one forward by one. -/
theorem State.srAnswerAt_afterSrRead (s : State) (n : Nat) :
    s.afterSrRead.srAnswerAt n = s.srAnswerAt (n + 1) := by
  simp only [State.srAnswerAt, State.afterSrRead_srScript, State.afterSrRead_srCount]
  rw [show s.srCount + 1 + n = s.srCount + (n + 1) by omega]
  cases s.srScript <;> rfl

/-- Using up one DR answer moves every later one forward by one. -/
theorem State.drAnswerAt_afterDrRead (s : State) (n : Nat) :
    s.afterDrRead.drAnswerAt n = s.drAnswerAt (n + 1) := by
  simp only [State.drAnswerAt, State.afterDrRead_drScript, State.afterDrRead_drCount]
  rw [show s.drCount + 1 + n = s.drCount + (n + 1) by omega]
  cases s.drScript <;> rfl

theorem State.offered_accepting {s : State} (h : s.seq.accepting = true) (d : Latch) (n : Word) :
    s.offered d n = s.accept d n := by simp [State.offered, h]

theorem State.offered_waiting {s : State} (h : s.seq.accepting = false) (d : Latch) (n : Word) :
    s.offered d n = s := by simp [State.offered, h]

/-- What RD_SR does when it answers a next state: one poll iteration, in a polling state. -/
theorem execRdSr_next {s t : State} (h : execRdSr s = .next t) :
    (s.seq = .busywait ∧ t = s.poll (afterBusy s.d.op)) ∨ (s.seq = .cmdWait ∧ t = s.poll .cmdComplete) ∨
    (s.seq = .rdPoll ∧ t = s.poll .rdPop) ∨ (s.seq = .wrPoll ∧ t = s.poll .wrPush) ∨
    (s.seq = .wrDrain ∧ t = s.poll .dataComplete) := by
  unfold execRdSr at h
  split at h <;> simp_all [eq_comm]

/-- What WR_DLR does when it answers a next state: the fault entry at length zero, else the write. -/
theorem execWrDlr_next {s t : State} (h : execWrDlr s = .next t) :
    s.seq = .lenprog ∧ ((s.len = 0 ∧ t = s.takeFault causeZeroLength) ∨
      (s.len ≠ 0 ∧ t = s.configWrite .dlr (dlr s.len) .cfgAbr)) := by
  unfold execWrDlr at h
  split at h
  · next hs =>
    split at h
    · next hl => cases h; exact ⟨hs, .inl ⟨hl, rfl⟩⟩
    · next hl => cases h; exact ⟨hs, .inr ⟨hl, rfl⟩⟩
  · cases h

theorem execWrAbr_next {s t : State} (h : execWrAbr s = .next t) :
    s.seq = .cfgAbr ∧ t = s.configWrite .abr (abr s.d) .cfgCcr := by
  unfold execWrAbr at h
  split at h <;> simp_all [eq_comm]

theorem execWrCcr_next {s t : State} (h : execWrCcr s = .next t) :
    s.seq = .cfgCcr ∧ t = s.configWrite .ccr (ccr s.params.ccr s.d (fm s.d.op)) .cfgAr := by
  unfold execWrCcr at h
  split at h <;> simp_all [eq_comm]

theorem execWrAr_next {s t : State} (h : execWrAr s = .next t) :
    s.seq = .cfgAr ∧ t = s.configWrite .ar (ar s.d) (afterConfig s.d.op) := by
  unfold execWrAr at h
  split at h <;> simp_all [eq_comm]

/-- The state after `RegRead(DR, 1)` whose byte is stored at `BUF[IDX]`. -/
def State.stored (s : State) : State := { s.afterDrRead with buf := Memory.write s.buf s.idx.toNat s.drAnswer }

@[simp] theorem State.stored_params (s : State) : s.stored.params = s.params := rfl
@[simp] theorem State.stored_d (s : State) : s.stored.d = s.d := rfl
@[simp] theorem State.stored_len (s : State) : s.stored.len = s.len := rfl
@[simp] theorem State.stored_idx (s : State) : s.stored.idx = s.idx := rfl
@[simp] theorem State.stored_seq (s : State) : s.stored.seq = s.seq := rfl
@[simp] theorem State.stored_fault (s : State) : s.stored.fault = s.fault := rfl
@[simp] theorem State.stored_cause (s : State) : s.stored.cause = s.cause := rfl
@[simp] theorem State.stored_buf (s : State) : s.stored.buf = Memory.write s.buf s.idx.toNat s.drAnswer := rfl
@[simp] theorem State.stored_periph (s : State) : s.stored.periph = s.periph := rfl
@[simp] theorem State.stored_port (s : State) : s.stored.port = s.port := rfl
@[simp] theorem State.stored_resetIn (s : State) : s.stored.resetIn = s.resetIn := rfl
@[simp] theorem State.stored_srScript (s : State) : s.stored.srScript = s.srScript := rfl
@[simp] theorem State.stored_srCount (s : State) : s.stored.srCount = s.srCount := rfl
@[simp] theorem State.stored_drScript (s : State) : s.stored.drScript = s.drScript.tail := rfl
@[simp] theorem State.stored_drCount (s : State) : s.stored.drCount = s.drCount + 1 := rfl
@[simp] theorem State.stored_trace (s : State) : s.stored.trace = s.trace ++ [.rd .dr (.byte s.drAnswer)] := rfl

/-- The byte that `RegWrite(DR, 1, BUF[IDX])` sends. -/
def State.nextByte (s : State) : Byte := Memory.read s.buf s.idx.toNat

/-- What RD_DR8 does when it answers a next state: `IDX < LEN`, and the byte stands at `BUF[IDX]`. -/
theorem execRdDr8_next {s t : State} (h : execRdDr8 s = .next t) :
    s.seq = .rdPop ∧ s.idx.toNat < s.len.toNat ∧
      t = s.stored.advance .rdPoll .dataComplete := by
  unfold execRdDr8 at h
  split at h
  · next hs =>
    split at h
    · next u hu =>
      obtain ⟨hlt, rfl⟩ := State.bufWrite_eq_some.1 hu
      cases h
      exact ⟨hs, hlt, rfl⟩
    · cases h
  · cases h

/-- What WR_DR8 does when it answers a next state: `IDX < LEN`, and `BUF[IDX]` is written to DR. -/
theorem execWrDr8_next {s t : State} (h : execWrDr8 s = .next t) :
    s.seq = .wrPush ∧ s.idx.toNat < s.len.toNat ∧
      t = (s.regWriteDr s.nextByte).advance .wrPoll .wrDrain := by
  unfold execWrDr8 at h
  split at h
  · next hs =>
    split at h
    · next b hb =>
      obtain ⟨hlt, rfl⟩ := State.bufRead_eq_some.1 hb
      cases h
      exact ⟨hs, hlt, rfl⟩
    · cases h
  · cases h

/-- The completion of RD_DR8. -/
theorem execRdDr8_of_lt {s : State} (hs : s.seq = .rdPop) (h : s.idx.toNat < s.len.toNat) :
    execRdDr8 s = .next (s.stored.advance .rdPoll .dataComplete) := by
  simp [execRdDr8, hs, State.bufWrite, h, State.stored]

/-- The completion of WR_DR8. -/
theorem execWrDr8_of_lt {s : State} (hs : s.seq = .wrPush) (h : s.idx.toNat < s.len.toNat) :
    execWrDr8 s = .next ((s.regWriteDr s.nextByte).advance .wrPoll .wrDrain) := by
  simp [execWrDr8, hs, State.bufRead, h, State.nextByte]

end Sys2Proof.Machine
end

