-- ==== Sys2Proof/Laws/PerInstr.lean ====
section
/-! SUPPORT. Per-instruction facts about the encoding: a request's header carries its `OP` code, a DDR code that is not the
reserved one, and zero in the reserved bits (spec 30_encoding.md R66, R67, R69, R74); an access kind is 4 bytes wide, or 1 at
the data register (20_memory.md R43). -/

namespace Sys2Proof.Laws.HeaderForm

open Sys2Proof Sys2Proof.Machine

/-- The request kind of a request. -/
def kind : Instr → Option ReqKind
  | .cmd _ => some .cmd
  | .read _ _ => some .read
  | .write _ _ => some .write
  | .map _ => some .map
  | .rdSr | .wrDlr | .wrAbr | .wrCcr | .wrAr | .rdDr8 | .wrDr8 => none

/-- The form of an instruction's encoding. -/
def Statement (i : Instr) : Prop :=
  match encode i with
  | .request w => (kind i).map opCode = some (field w.w0 0 2) ∧ field w.w0 2 2 ≠ 3 ∧ field w.w0 22 2 = 0
  | .access a => kind i = none ∧ (a.bytes = 4 ∨ a.bytes = 1 ∧ a.reg = .dr)

theorem header_op (op : ReqKind) (c : Command) (n : BitVec 5) (l : LineWidth) (b : Bool) :
    field (encodeHeader op c n l b) 0 2 = opCode op := by
  simp only [encodeHeader, field_or]
  rw [field_place_same _ 0 (by decide)]
  simp [field_place_disjoint]

theorem header_ddr (op : ReqKind) (c : Command) (n : BitVec 5) (l : LineWidth) (b : Bool) :
    field (encodeHeader op c n l b) 2 2 = ddrCode c.ddr := by
  simp only [encodeHeader, field_or]
  rw [field_place_same (ddrCode c.ddr) 2 (by decide)]
  simp [field_place_disjoint]

theorem header_reserved (op : ReqKind) (c : Command) (n : BitVec 5) (l : LineWidth) (b : Bool) :
    field (encodeHeader op c n l b) 22 2 = 0 := by
  simp [encodeHeader, field_place_disjoint]

theorem ddrCode_ne (m : DdrMode) : ddrCode m ≠ 3 := by cases m <;> decide

theorem request_form (op : ReqKind) (io : IoCommand) (n : Word) :
    field (encodeWords op io n).w0 0 2 = opCode op ∧ field (encodeWords op io n).w0 2 2 ≠ 3 ∧
      field (encodeWords op io n).w0 22 2 = 0 :=
  ⟨header_op .., by rw [encodeWords, header_ddr]; exact ddrCode_ne _, header_reserved ..⟩

theorem cmd (c : Command) : Statement (.cmd c) := by
  simpa [Statement, encode, kind, eq_comm] using request_form .cmd { c with } 0

theorem read (io : IoCommand) (len : Word) : Statement (.read io len) := by
  simpa [Statement, encode, kind, eq_comm] using request_form .read io len

theorem write (io : IoCommand) (len : Word) : Statement (.write io len) := by
  simpa [Statement, encode, kind, eq_comm] using request_form .write io len

theorem map (io : IoCommand) : Statement (.map io) := by
  simpa [Statement, encode, kind, eq_comm] using request_form .map io 0

theorem rdSr : Statement .rdSr := ⟨rfl, .inl rfl⟩
theorem wrDlr : Statement .wrDlr := ⟨rfl, .inl rfl⟩
theorem wrAbr : Statement .wrAbr := ⟨rfl, .inl rfl⟩
theorem wrCcr : Statement .wrCcr := ⟨rfl, .inl rfl⟩
theorem wrAr : Statement .wrAr := ⟨rfl, .inl rfl⟩
theorem rdDr8 : Statement .rdDr8 := ⟨rfl, .inr ⟨rfl, rfl⟩⟩
theorem wrDr8 : Statement .wrDr8 := ⟨rfl, .inr ⟨rfl, rfl⟩⟩

end Sys2Proof.Laws.HeaderForm
end

