-- ==== Sys2Proof/Laws/Step.lean ====
section
/-! SUPPORT. What one step can do, said once. -/

namespace Sys2Proof.Machine

open Sys2Proof

/-- The sequencer states fall into three classes. -/
theorem Seq.class_cases (q : Seq) : q.accepting = true ∨ q.inFlight = true ∨ q = .faulted := by
  cases q <;> simp [Seq.accepting, Seq.inFlight]

theorem issued_of_inFlight {q : Seq} (h : q.inFlight = true) : ∃ i, issued q = some i := by
  cases q <;> simp_all [Seq.inFlight, issued]

theorem not_accepting_of_inFlight {q : Seq} (h : q.inFlight = true) : q.accepting = false := by
  cases q <;> simp_all [Seq.inFlight, Seq.accepting]

theorem ne_faulted_of_accepting {q : Seq} (h : q.accepting = true) : q ≠ .faulted := by
  rintro rfl; cases h

theorem ne_faulted_of_inFlight {q : Seq} (h : q.inFlight = true) : q ≠ .faulted := by
  rintro rfl; cases h

/-- What an accepted request word decodes to, by its `OP` code. -/
theorem decodeRequest_ok {w : ReqWord} {i : Instr} (h : decodeRequest w = .ok i) :
    field w.w0 22 2 = 0 ∧ ∃ ddr, ddrOfCode (field w.w0 2 2) = some ddr ∧
      ((opOfCode (field w.w0 0 2) = .cmd ∧ lineOfCode (field w.w0 10 2) = .none ∧ field w.w0 16 5 = 0 ∧
          bit w.w0 21 = false ∧ w.w3 = 0 ∧ i = .cmd (decodeCommand w ddr)) ∨
       (opOfCode (field w.w0 0 2) = .read ∧ i = .read (decodeIoCommand w ddr) w.w3) ∨
       (opOfCode (field w.w0 0 2) = .write ∧ i = .write (decodeIoCommand w ddr) w.w3) ∨
       (opOfCode (field w.w0 0 2) = .map ∧ w.w3 = 0 ∧ i = .map (decodeIoCommand w ddr))) := by
  unfold decodeRequest at h
  split at h
  · cases h
  · next h0 =>
    refine ⟨Decidable.not_not.1 h0, ?_⟩
    split at h
    · cases h
    · next ddr hd =>
      refine ⟨ddr, hd, ?_⟩
      split at h
      · next ho =>
        unfold decodeCmd at h
        split at h
        · cases h
        · next h1 =>
          split at h
          · cases h
          · next h2 =>
            split at h
            · cases h
            · next h3 =>
              split at h
              · cases h
              · next h4 =>
                cases h
                exact .inl ⟨ho, Decidable.not_not.1 h1, Decidable.not_not.1 h2, Bool.eq_false_iff.2 h3,
                  Decidable.not_not.1 h4, rfl⟩
      · next ho => cases h; exact .inr (.inl ⟨ho, rfl⟩)
      · next ho => cases h; exact .inr (.inr (.inl ⟨ho, rfl⟩))
      · next ho =>
        split at h
        · cases h
        · next h4 => cases h; exact .inr (.inr (.inr ⟨ho, Decidable.not_not.1 h4, rfl⟩))

/-- Running a decoded request offers the latch `d` and the length `W3` to the block, in every state alike. -/
theorem exec_of_decodeRequest {w : ReqWord} {i : Instr} (h : decodeRequest w = .ok i) :
    ∃ d, (d = latchCommand .cmd (decodeCommand w d.ddr) ∨ d = latchIoCommand .read (decodeIoCommand w d.ddr) ∨
        d = latchIoCommand .write (decodeIoCommand w d.ddr) ∨ d = latchIoCommand .map (decodeIoCommand w d.ddr)) ∧
      (d.op = .cmd ∨ d.op = .map → w.w3 = 0) ∧ ∀ s, exec i s = .next (s.offered d w.w3) := by
  obtain ⟨-, ddr, -, ⟨-, -, -, -, h3, rfl⟩ | ⟨-, rfl⟩ | ⟨-, rfl⟩ | ⟨-, h3, rfl⟩⟩ := decodeRequest_ok h
  · exact ⟨latchCommand .cmd (decodeCommand w ddr), .inl rfl, fun _ => h3, fun s => by rw [h3]; rfl⟩
  · exact ⟨latchIoCommand .read (decodeIoCommand w ddr), .inr (.inl rfl), fun h => by cases h <;> contradiction,
      fun s => rfl⟩
  · exact ⟨latchIoCommand .write (decodeIoCommand w ddr), .inr (.inr (.inl rfl)),
      fun h => by cases h <;> contradiction, fun s => rfl⟩
  · exact ⟨latchIoCommand .map (decodeIoCommand w ddr), .inr (.inr (.inr rfl)), fun _ => h3,
      fun s => by rw [h3]; rfl⟩

/-- In a state with a request in flight a step runs the access kind that the sequencer state issues. -/
theorem step_inFlight {s : State} {i : Instr} (hr : s.resetIn = false) (hi : issued s.seq = some i) :
    step s = exec i s := by
  have hf : s.seq.accepting = false ∧ s.seq ≠ .faulted := by
    cases hq : s.seq <;> simp_all [issued, Seq.accepting]
  simp [step, hr, hf, fetch, hi]

/-- In an accepting state a step runs the request standing at the port. -/
theorem step_accepting {s : State} {o : Offer} {rest : List Offer} {i : Instr} (hr : s.resetIn = false)
    (ha : s.seq.accepting = true) (hp : s.port = o :: rest) (hd : decodeRequest o.word = .ok i) :
    step s = exec i (s.takeOffer i o rest) := by
  simp [step, hr, ne_faulted_of_accepting ha, fetch, ha, hp, hd]

/-- In an accepting state nothing is fetched only where no well-formed request stands at the port. -/
theorem not_requestOffered_of_fetch {s : State} (ha : s.seq.accepting = true) (h : fetch s = none) :
    ¬s.requestOffered := by
  rintro ⟨o, rest, i, hp, hd⟩
  simp [fetch, ha, hp, hd] at h

/-- What a step can do when it answers a next state: reset, nothing (no request, or a refused word, in an accepting state),
the acceptance of the request at the port, or the access the sequencer state issues. -/
theorem step_cases {s t : State} (h : step s = .next t) :
    (s.resetIn = true ∧ t = s.applyReset) ∨
    (s.resetIn = false ∧ s.seq.accepting = true ∧ ¬s.requestOffered ∧ t = s) ∨
    (s.resetIn = false ∧ s.seq.accepting = true ∧ ∃ o rest i, s.port = o :: rest ∧
      decodeRequest o.word = .ok i ∧ exec i (s.takeOffer i o rest) = .next t) ∨
    (s.resetIn = false ∧ s.seq.inFlight = true ∧ ∃ i, issued s.seq = some i ∧ exec i s = .next t) := by
  unfold step at h
  split at h
  · next hr => cases h; exact .inl ⟨hr, rfl⟩
  · next hr =>
    replace hr : s.resetIn = false := by simpa using hr
    split at h
    · cases h
    · next hf =>
      rcases Seq.class_cases s.seq with ha | hi | hq
      · split at h
        · next hfe =>
          cases h
          exact .inr (.inl ⟨hr, ha, not_requestOffered_of_fetch ha hfe, rfl⟩)
        · next i u hfe =>
          unfold fetch at hfe
          rw [if_pos ha] at hfe
          split at hfe
          · cases hfe
          · next o rest hp =>
            split at hfe
            · next j hd => cases hfe; exact .inr (.inr (.inl ⟨hr, ha, o, rest, _, hp, hd, h⟩))
            · cases hfe
      · obtain ⟨i, hi'⟩ := issued_of_inFlight hi
        refine .inr (.inr (.inr ⟨hr, hi, i, hi', ?_⟩))
        simpa [fetch, not_accepting_of_inFlight hi, hi'] using h
      · exact absurd hq hf

/-- What a step without reset does, arc by arc, with the state it leaves. -/
theorem step_arcs {s t : State} (hr : s.resetIn = false) (h : step s = .next t) :
    (s.seq.accepting = true ∧ ¬s.requestOffered ∧ t = s) ∨
    (s.seq.accepting = true ∧ ∃ o rest i d, s.port = o :: rest ∧ decodeRequest o.word = .ok i ∧
      (d = latchCommand .cmd (decodeCommand o.word d.ddr) ∨ d = latchIoCommand .read (decodeIoCommand o.word d.ddr) ∨
        d = latchIoCommand .write (decodeIoCommand o.word d.ddr) ∨
        d = latchIoCommand .map (decodeIoCommand o.word d.ddr)) ∧
      (d.op = .cmd ∨ d.op = .map → o.word.w3 = 0) ∧ t = (s.takeOffer i o rest).accept d o.word.w3) ∨
    (s.seq = .busywait ∧ t = s.poll (afterBusy s.d.op)) ∨
    (s.seq = .cmdWait ∧ t = s.poll .cmdComplete) ∨
    (s.seq = .rdPoll ∧ t = s.poll .rdPop) ∨
    (s.seq = .wrPoll ∧ t = s.poll .wrPush) ∨
    (s.seq = .wrDrain ∧ t = s.poll .dataComplete) ∨
    (s.seq = .lenprog ∧ s.len = 0 ∧ t = s.takeFault causeZeroLength) ∨
    (s.seq = .lenprog ∧ s.len ≠ 0 ∧ t = s.configWrite .dlr (dlr s.len) .cfgAbr) ∨
    (s.seq = .cfgAbr ∧ t = s.configWrite .abr (abr s.d) .cfgCcr) ∨
    (s.seq = .cfgCcr ∧ t = s.configWrite .ccr (ccr s.params.ccr s.d (fm s.d.op)) .cfgAr) ∨
    (s.seq = .cfgAr ∧ t = s.configWrite .ar (ar s.d) (afterConfig s.d.op)) ∨
    (s.seq = .rdPop ∧ s.idx.toNat < s.len.toNat ∧ t = s.stored.advance .rdPoll .dataComplete) ∨
    (s.seq = .wrPush ∧ s.idx.toNat < s.len.toNat ∧ t = (s.regWriteDr s.nextByte).advance .wrPoll .wrDrain) := by
  rcases step_cases h with ⟨hr', -⟩ | ⟨-, ha, hno, rfl⟩ | ⟨-, ha, o, rest, i, hp, hd, he⟩ | ⟨-, hf, i, hi, he⟩
  · rw [hr] at hr'; cases hr'
  · exact .inl ⟨ha, hno, rfl⟩
  · obtain ⟨d, hd1, hd2, hd3⟩ := exec_of_decodeRequest hd
    rw [hd3, State.offered_accepting (s := State.takeOffer i o rest s) ha] at he
    cases he
    exact .inr (.inl ⟨ha, o, rest, i, d, hp, hd, hd1, hd2, rfl⟩)
  · right; right
    cases hq : s.seq <;> simp only [hq, issued, Seq.inFlight, Option.some.injEq, reduceCtorEq] at hi hf <;>
      subst hi <;> simp only [exec] at he
    case busywait | cmdWait | rdPoll | wrPoll | wrDrain =>
      have hc := execRdSr_next he
      simp only [hq, reduceCtorEq, true_and, false_and, or_false, false_or] at hc ⊢
      exact hc
    case lenprog =>
      obtain ⟨-, hc⟩ := execWrDlr_next he
      simpa using hc
    case cfgAbr => simpa using (execWrAbr_next he).2
    case cfgCcr => simpa using (execWrCcr_next he).2
    case cfgAr => simpa using (execWrAr_next he).2
    case rdPop => simpa using (execRdDr8_next he).2
    case wrPush => simpa using (execWrDr8_next he).2

/-- No step changes the parameters (R6, R37). -/
theorem step_params {s t : State} (h : step s = .next t) : t.params = s.params := by
  cases hr : s.resetIn
  · rcases step_arcs hr h with ⟨-, -, rfl⟩ | ⟨-, o, rest, i, d, -, -, -, -, rfl⟩ | ⟨-, rfl⟩ | ⟨-, rfl⟩ | ⟨-, rfl⟩ |
      ⟨-, rfl⟩ | ⟨-, rfl⟩ | ⟨-, -, rfl⟩ | ⟨-, -, rfl⟩ | ⟨-, rfl⟩ | ⟨-, rfl⟩ | ⟨-, rfl⟩ | ⟨-, -, rfl⟩ | ⟨-, -, rfl⟩ <;> rfl
  · simp only [step, hr, if_true, Host.Outcome.next.injEq] at h
    rw [← h]
    rfl

end Sys2Proof.Machine
end

