-- ==== Sys2Proof/Laws/Runs.lean ====
section
/-! SUPPORT. The laws of runs and of the terms in which whole requests are stated (Safety.lean): runs compose, the index
moves by one below the length, the streaming parts of a trace grow at their end, and the bytes of a buffer after a write. -/

namespace Sys2Proof.Machine

open Sys2Proof

theorem Reaches.trans {s t u : State} (h : Reaches s t) (h' : Reaches t u) : Reaches s u := by
  induction h' with
  | refl => exact h
  | step _ hs ih => exact .step ih hs

theorem Reaches.head {s t u : State} (hs : Machine.step s = .next t) (h : Reaches t u) : Reaches s u :=
  Reaches.trans (.step .refl hs) h

/-- No run changes the parameters. -/
theorem Reaches.params {s t : State} (h : Reaches s t) : t.params = s.params := by
  induction h with
  | refl => rfl
  | step _ hs ih => exact (step_params hs).trans ih

/-- A run of `k` steps that answers a state reaches that state. -/
theorem Reaches.of_run {k : Nat} {s t : State} (h : Host.Core.run core k s = .next t) : Reaches s t := by
  induction k generalizing s with
  | zero => cases h; exact .refl
  | succ k ih =>
    simp only [Host.Core.run] at h
    split at h
    · next u hu => exact .head hu (ih h)
    · cases h
    · cases h

/-- Below the length, `IDX + 1` does not wrap. -/
theorem State.idx_succ_toNat {s : State} (h : s.idx.toNat < s.len.toNat) : (s.idx + 1).toNat = s.idx.toNat + 1 := by
  have := s.len.isLt
  rw [BitVec.toNat_add]
  simp
  omega

/-- The last byte of the payload (R124, R126), as a fact about numbers. -/
theorem State.idx_succ_eq_len {s : State} (h : s.idx.toNat < s.len.toNat) :
    s.idx + 1 = s.len ↔ s.idx.toNat + 1 = s.len.toNat := by
  rw [← BitVec.toNat_inj, State.idx_succ_toNat h]

/-- Accepting a named buffer keeps the canonical form. -/
theorem offeredBuf_wf {i : Instr} {o : Offer} {m : Memory} (h : Memory.wf m = true) :
    Memory.wf (offeredBuf i o m) = true := by
  unfold offeredBuf
  split
  · split
    · exact Memory.ofBytes_wf _
    · exact h
  · exact h

theorem bufBytes_succ (m : Memory) (n : Nat) : bufBytes m (n + 1) = bufBytes m n ++ [Memory.read m n] := by
  simp [bufBytes, List.range_succ]

/-- Writing the next byte of a buffer appends it to the bytes before it. -/
theorem bufBytes_write {m : Memory} (h : Memory.wf m = true) (n : Nat) (b : Byte) :
    bufBytes (Memory.write m n b) (n + 1) = bufBytes m n ++ [b] := by
  rw [bufBytes_succ, Memory.read_write h, if_pos rfl]
  congr 1
  refine List.map_congr_left fun a ha => ?_
  rw [Memory.read_write h, if_neg (by simp at ha; omega)]

/-- One more byte read, at the end of the streaming part of a READ. -/
theorem readData_snoc {l : Config.SrLayout} {bs : List Byte} {data w : List Event} {b : Byte} (h : readData l bs data)
    (hw : flagWait l .rdPoll w) : readData l (bs ++ [b]) (data ++ w ++ [.rd .dr (.byte b)]) := by
  induction bs generalizing data with
  | nil => cases h; exact ⟨w, [], hw, rfl, by simp⟩
  | cons c cs ih =>
    obtain ⟨w', r, h1, h2, rfl⟩ := h
    exact ⟨w', _, h1, ih h2, by simp⟩

/-- One more byte written, at the end of the streaming part of a WRITE. -/
theorem writeData_snoc {l : Config.SrLayout} {bs : List Byte} {data w : List Event} {b : Byte} (h : writeData l bs data)
    (hw : flagWait l .wrPoll w) : writeData l (bs ++ [b]) (data ++ w ++ [.wr .dr (.byte b)]) := by
  induction bs generalizing data with
  | nil => cases h; exact ⟨w, [], hw, rfl, by simp⟩
  | cons c cs ih =>
    obtain ⟨w', r, h1, h2, rfl⟩ := h
    exact ⟨w', _, h1, ih h2, by simp⟩

end Sys2Proof.Machine
end

