-- ==== Sys2Proof/Tests/Slice0.lean ====
section
/-! SUPPORT. Tests on fixed values, and for every statement with hypotheses a witness that meets them. Every expected value
is taken from the spec: 30_encoding.md R81 and 95_test_vectors.md (tables A to D, S5, R109), or is counted by hand from the
rule named. -/

namespace Sys2Proof.Tests

open Sys2Proof Sys2Proof.Machine

/-! ### The smoke test of WellFormed: a canonical value must lie below `2^(8w)` (R14, R15) -/

/-- An address of one byte with a nine-bit value. -/
def badAddress : Command := { adlw := .single, addr := ⟨.w1, 0x100⟩ }

/-- Alternate bytes of three bytes with a value of 25 bits. -/
def badAlternate : IoCommand := { ablw := .dual, alt := ⟨.w3, 0x1000000⟩ }

theorem test_wf_refuses_cmd_address : (Instr.cmd badAddress).wf = false := by decide
theorem test_wf_refuses_read_alternate : (Instr.read badAlternate 1).wf = false := by decide
theorem test_wf_refuses_write_alternate : (Instr.write badAlternate 1).wf = false := by decide
theorem test_wf_refuses_map_address : (Instr.map { badAddress with }).wf = false := by decide
theorem test_wf_allows_widest : (Instr.cmd { addr := ⟨.w4, 0xFFFFFFFF⟩, alt := ⟨.w3, 0xFFFFFF⟩ }).wf = true := by decide

/-! ### Decoding: request words of R81 and tables B and C, accesses of R43 at the addresses of R50 -/

/-- R81, first row. -/
theorem test_decode_cmd_write_enable : decodeRequest ⟨0x06000010, 0, 0, 0⟩ = .ok (.cmd { ilw := .single, instr := 0x06 }) := by decide
/-- C12: the address word is masked to three bytes. -/
theorem test_decode_cmd_erase : decodeRequest ⟨0x20002050, 0xFF001000, 0, 0⟩ = .ok (.cmd { ilw := .single, instr := 0x20, adlw := .single, addr := ⟨.w3, 0x1000⟩ }) := by decide
/-- R81, third row, every bit of `W0` written out under it. -/
theorem test_decode_read_quad : decodeRequest ⟨0xEB042CF1, 0x00001000, 0, 0x100⟩ = 
    .ok (.read { ilw := .quad, instr := 0xEB, adlw := .quad, addr := ⟨.w3, 0x1000⟩, dcyc := 4, dlw := .quad } 256) := by decide
/-- R81, fourth row. -/
theorem test_decode_write_page : decodeRequest ⟨0x02002452, 0x00000100, 0, 4⟩ = 
    .ok (.write { ilw := .single, instr := 0x02, adlw := .single, addr := ⟨.w3, 0x100⟩, dlw := .single } 4) := by decide
/-- B9: every field at its maximum. -/
theorem test_decode_write_every_field : decodeRequest ⟨0xFF3FFFFA, 0xFFFFFFFF, 0xFFFFFFFF, 1⟩ = 
    .ok (.write { ilw := .quad, instr := 0xFF, adlw := .quad, addr := ⟨.w4, 0xFFFFFFFF⟩, ablw := .quad,
                  alt := ⟨.w4, 0xFFFFFFFF⟩, ddr := .enabledWithHold, dcyc := 31, dlw := .quad, sioo := true } 1) := by decide
/-- R81, fifth row. -/
theorem test_decode_map_continuous : decodeRequest ⟨0xEB242FD3, 0, 0xA0, 0⟩ = 
    .ok (.map { ilw := .single, instr := 0xEB, adlw := .quad, addr := ⟨.w3, 0⟩, ablw := .quad, alt := ⟨.w1, 0xA0⟩,
                dcyc := 4, dlw := .quad, sioo := true }) := by decide
/-- C10: a zero length is a request. -/
theorem test_decode_zero_length_accepted : decodeRequest ⟨1, 0, 0, 0⟩ = .ok (.read {} 0) := by decide
/-- C9: the words of absent phases are carried, masked, and not refused. -/
theorem test_decode_absent_words : decodeRequest ⟨0, 5, 6, 0⟩ = .ok (.cmd { addr := ⟨.w1, 5⟩, alt := ⟨.w1, 6⟩ }) := by decide
theorem test_refuse_c1 : decodeRequest ⟨0x00400000, 0, 0, 0⟩ = .refused .reservedBits := by decide
theorem test_refuse_c2 : decodeRequest ⟨0x00800001, 0, 0, 1⟩ = .refused .reservedBits := by decide
theorem test_refuse_c3 : decodeRequest ⟨0x0000000C, 0, 0, 0⟩ = .refused .ddrReserved := by decide
theorem test_refuse_c4 : decodeRequest ⟨0x00000400, 0, 0, 0⟩ = .refused .cmdDataWidth := by decide
theorem test_refuse_c5 : decodeRequest ⟨0x00010000, 0, 0, 0⟩ = .refused .cmdDummyCycles := by decide
theorem test_refuse_c6 : decodeRequest ⟨0x00200000, 0, 0, 0⟩ = .refused .cmdSendOnce := by decide
theorem test_refuse_c7 : decodeRequest ⟨0, 0, 0, 1⟩ = .refused .cmdLength := by decide
theorem test_refuse_c8 : decodeRequest ⟨3, 0, 0, 1⟩ = .refused .mapLength := by decide

/-- The bytes of `0x06000010 0 0 0` in memory (R65, D34): the header's low byte stands first. -/
theorem test_decode_bytes :
    decodeBytes [0x10, 0, 0, 0x06, 0, 0, 0, 0, 0, 0, 0, 0, 0, 0, 0, 0] = .ok (.cmd { ilw := .single, instr := 0x06 }) := by
  decide
theorem test_decode_fifteen_bytes : decodeBytes [0, 0, 0, 0, 0, 0, 0, 0, 0, 0, 0, 0, 0, 0, 0] = .refused .wrongLength := by
  decide
theorem test_decodeTableWord : decodeTableWord 128 0x06000010 = some (.cmd { ilw := .single, instr := 0x06 }) := by decide
theorem test_decodeTableWord_refused : decodeTableWord 128 0x00400000 = none := by decide

theorem test_decode_rdSr : decodeBus addressMap .read 0xA0001008 4 = .ok .rdSr := by decide
theorem test_decode_wrDlr : decodeBus addressMap .write 0xA0001010 4 = .ok .wrDlr := by decide
theorem test_decode_wrCcr : decodeBus addressMap .write 0xA0001014 4 = .ok .wrCcr := by decide
theorem test_decode_wrAr : decodeBus addressMap .write 0xA0001018 4 = .ok .wrAr := by decide
theorem test_decode_wrAbr : decodeBus addressMap .write 0xA000101C 4 = .ok .wrAbr := by decide
theorem test_decode_rdDr8 : decodeBus addressMap .read 0xA0001020 1 = .ok .rdDr8 := by decide
theorem test_decode_wrDr8 : decodeBus addressMap .write 0xA0001020 1 = .ok .wrDr8 := by decide
/-- The block never writes SR and never reads DR by a word (R43). -/
theorem test_refuse_sr_write : decodeBus addressMap .write 0xA0001008 4 = .refused .noSuchAccess := by decide
/-- An address of no register is no access (R34). -/
theorem test_refuse_hole : decodeBus addressMap .read 0xA000100C 4 = .refused .noSuchAccess := by decide
/-- A 4-byte access at an address that is no multiple of 4 (R44). -/
theorem test_refuse_misaligned :
    decodeBus { addressMap with qspiBase := 0xA0001002 } .read 0xA000100A 4 = .refused .misaligned := by decide
theorem test_refuse_dr_word : decodeBus addressMap .read 0xA0001020 4 = .refused .noSuchAccess := by decide

/-! ### Textual form: R79, R80, R81 -/

theorem test_assemble_read :
    (assemble .read [.i 0xEB .quad, .a [0x00, 0x10, 0x00] .quad, .dc 4, .d .quad, .len 256]).map encode =
      some (.request ⟨0xEB042CF1, 0x00001000, 0, 0x100⟩) := by decide
theorem test_assemble_map :
    (assemble .map [.i 0xEB .single, .a [0, 0, 0] .quad, .ab [0xA0] .quad, .dc 4, .d .quad, .sioo]).map encode =
      some (.request ⟨0xEB242FD3, 0, 0xA0, 0⟩) := by decide
theorem test_assemble_line :
    (assembleLine "WRITE i=0x02/1 a=0x000100/1 d=1 len=4".toList).map encode =
      some (.request ⟨0x02002452, 0x00000100, 0, 0x00000004⟩) := by decide
/-- 95_test_vectors.md, line 42, writes a length in hexadecimal. -/
theorem test_assemble_line_hexadecimal_length :
    (assembleLine "READ i=0x05/1 d=1 len=0xFFFFFFFF".toList).map encode =
      some (.request ⟨0x05000411, 0, 0, 0xFFFFFFFF⟩) := by decide
theorem test_assemble_line_binary_count :
    (assembleLine "READ dc=0b101 len=007".toList).map encode = some (.request ⟨0x00050001, 0, 0, 7⟩) := by decide
theorem test_assemble_line_twelve_bits : assembleLine "CMD a=0x100/1".toList = none := by decide
theorem test_assemble_line_ddr :
    assembleLine "MAP ddr=hold".toList = some (.map { ddr := .enabledWithHold }) := by decide
theorem test_assemble_needs_length : assemble .write [.i 2 .single] = none := by decide
theorem test_assemble_cmd_takes_no_data : assemble .cmd [.i 2 .single, .d .single] = none := by decide

/-! ### Argument encoding: table A -/

theorem test_argument_a2 : argValue (.b2 0x34 0x12) = 0x1234 := by decide
theorem test_argument_a5 : argValue (.b3 0xFF 0xFF 0xFF) = 0x00FFFFFF := by decide
theorem test_argument_a8 : sizeCode (argWidth (.b4 1 0 0 0)) = 3 := by decide
theorem test_argument_a11 : argFromU32 0x12345678 .w2 = .b2 0x78 0x56 := by decide
theorem test_argument_a14 : argValue (argFromU32 0xFF001000 .w3) = 0x1000 := by decide

/-! ### Register compiler: table B and R109 -/

/-- The latch that a request word leaves. -/
def latchOf (w : ReqWord) : Latch :=
  match (decodeRequest w).instr? with
  | some (.cmd c) => latchCommand .cmd c
  | some (.read io _) => latchIoCommand .read io
  | some (.write io _) => latchIoCommand .write io
  | some (.map io) => latchIoCommand .map io
  | _ => Latch.reset

/-- CCR, ABR and AR of a request word. -/
def compiled (w : ReqWord) : Word × Word × Word :=
  (ccr ccrLayout (latchOf w) (fm (latchOf w).op), abr (latchOf w), ar (latchOf w))

theorem test_compile_b2 : compiled ⟨0x06000010, 0, 0, 0⟩ = (0x00000106, 0, 0) := by decide
theorem test_compile_b3 : compiled ⟨0x00000080, 0, 0, 0⟩ = (0x00000800, 0, 0) := by decide
theorem test_compile_b4 : compiled ⟨0x9F004210, 0, 0x1234, 0⟩ = (0x0001819F, 0x1234, 0) := by decide
theorem test_compile_b7 : compiled ⟨0x03003411, 0x1234, 0, 1⟩ = (0x05000103, 0, 0) := by decide
theorem test_compile_b9 : compiled ⟨0xFF3FFFFA, 0xFFFFFFFF, 0xFFFFFFFF, 1⟩ = (0xD37FFFFF, 0xFFFFFFFF, 0xFFFFFFFF) := by decide
theorem test_compile_b10 : compiled ⟨0xED1F7FD1, 0x12345678, 0xBEEF, 2⟩ = (0x077DFDED, 0xBEEF, 0x12345678) := by decide
theorem test_compile_b11 : compiled ⟨0xED1F7FD5, 0x12345678, 0xBEEF, 2⟩ = (0x877DFDED, 0xBEEF, 0x12345678) := by decide
theorem test_compile_b12 : compiled ⟨0xED1F7FD9, 0x12345678, 0xBEEF, 2⟩ = (0xC77DFDED, 0xBEEF, 0x12345678) := by decide
theorem test_compile_b13 : compiled ⟨0xEB042FD1, 0x123456, 0xFFFFFFA5, 8⟩ = (0x0710EDEB, 0xA5, 0x123456) := by decide
theorem test_compile_b14 : compiled ⟨0xEB242FD3, 0, 0xA0, 0⟩ = (0x1F10EDEB, 0xA0, 0) := by decide
theorem test_compile_b16 : ccr ccrLayout (latchOf ⟨0x05000411, 0, 0, 1⟩) .poll = 0x09000105 := by decide
/-- The fields follow the layout that a configuration gives (D6): here the instruction stands in the upper byte. -/
theorem test_compile_other_layout :
    ccr { ccrLayout with instruction := 24, dmode := 0, fmode := 2, sioo := 4, dhhc := 6, ddrm := 7 }
      (latchOf ⟨0x9F000411, 0, 0, 1⟩) .read = 0x9F000105 := by decide
theorem test_dlr_256 : dlr 256 = 0xFF := by decide
theorem test_dlr_max : dlr 0xFFFFFFFF = 0xFFFFFFFE := by decide
theorem test_launch_b2 : launchPoint (latchOf ⟨0x06000010, 0, 0, 0⟩) = .writeCcr := by decide
theorem test_launch_b5 : launchPoint (latchOf ⟨0x20002050, 0x1000, 0, 0⟩) = .writeAr := by decide
theorem test_launch_b9 : launchPoint (latchOf ⟨0xFF3FFFFA, 0xFFFFFFFF, 0xFFFFFFFF, 1⟩) = .firstWriteDr := by decide
theorem test_launch_b13 : launchPoint (latchOf ⟨0xEB042FD1, 0x123456, 0xA5, 8⟩) = .writeAr := by decide
theorem test_launch_b15 : launchPoint (latchOf ⟨0x05000411, 0, 0, 1⟩) = .writeCcr := by decide
theorem test_launch_b14 : launchPoint (latchOf ⟨0xEB242FD3, 0, 0xA0, 0⟩) = .noExplicitLaunch := by decide
theorem test_launch_write_without_data : launchPoint (latchOf ⟨0x00000042, 0, 0, 1⟩) = .writeAr := by decide
theorem test_status_idle : Seq.status .idle = .ready := by decide
theorem test_periph_mapped : Periph.mapped ccrLayout { Periph.reset with ccr := 0x1F10EDEB } = true := by decide
theorem test_periph_length : Periph.expectedLength { Periph.reset with dlr := 0xFF } = 256 := by decide

/-! ### One step: table D -/

/-- A small state: the sequencer state, the request kind, and the answers the environment gives. -/
def st (q : Seq) (op : ReqKind) (sr : List Word := []) : State :=
  { State.reset with seq := q, d := { Latch.reset with op := op }, srScript := sr }

/-- A small state within a payload: `IDX`, `LEN`, the bytes of BUF, the answers to reads of DR. -/
def stData (q : Seq) (op : ReqKind) (idx len : Word) (buf : List Byte := []) (dr : List Byte := []) : State :=
  { st q op with idx := idx, len := len, buf := Memory.ofBytes buf, drScript := dr }

/-- What a test looks at in an outcome: `SEQ`, `IDX`, and the trace. -/
def seen : Host.Outcome State Fault Refusal → Option (Seq × Word × List Event)
  | .next t => some (t.seq, t.idx, t.trace)
  | .fault _ | .refused _ => none

/-- The state of an outcome. -/
def after : Host.Outcome State Fault Refusal → Option State
  | .next t => some t
  | .fault _ | .refused _ => none

/-- D1 to D4: only bit 5 counts in BUSYWAIT. -/
theorem test_rdSr_busywait :
    seen (step (st .busywait .cmd [0x20])) = some (.busywait, 0, [srRead 0x20]) ∧
    seen (step (st .busywait .cmd [0x06])) = some (.cfgAbr, 0, [srRead 0x06]) ∧
    seen (step (st .busywait .read [0])) = some (.lenprog, 0, [srRead 0]) ∧
    seen (step (st .busywait .map [0xFFFFFFDF])) = some (.cfgAbr, 0, [srRead 0xFFFFFFDF]) := by
  refine ⟨?_, ?_, ?_, ?_⟩ <;> decide
/-- D7 to D11, D14, D15, D17, D18: which flags end the other polls. -/
theorem test_rdSr_completion :
    seen (step (st .cmdWait .cmd [0x24])) = some (.cmdWait, 0, [srRead 0x24]) ∧
    seen (step (st .cmdWait .cmd [0x22])) = some (.cmdComplete, 0, [srRead 0x22]) ∧
    seen (step (st .rdPoll .read [0x20])) = some (.rdPoll, 0, [srRead 0x20]) ∧
    seen (step (st .rdPoll .read [0x04])) = some (.rdPop, 0, [srRead 0x04]) ∧
    seen (step (st .rdPoll .read [0x02])) = some (.rdPop, 0, [srRead 0x02]) ∧
    seen (step (st .wrPoll .write [0x02])) = some (.wrPoll, 0, [srRead 0x02]) ∧
    seen (step (st .wrPoll .write [0x04])) = some (.wrPush, 0, [srRead 0x04]) ∧
    seen (step (st .wrDrain .write [0x04])) = some (.wrDrain, 0, [srRead 0x04]) ∧
    seen (step (st .wrDrain .write [0x02])) = some (.dataComplete, 0, [srRead 0x02]) := by
  refine ⟨?_, ?_, ?_, ?_, ?_, ?_, ?_, ?_, ?_⟩ <;> decide
theorem test_step_d5 :
    (after (step (stData .lenprog .read 0 0))).map (fun t => (t.seq, t.fault, t.cause, t.trace)) =
      some (.faulted, true, 1, []) := by decide
theorem test_step_d6 :
    seen (step (stData .lenprog .read 0 1)) = some (.cfgAbr, 0, [.wr .dlr (.word 0)]) := by decide
theorem test_step_d12 :
    (after (step (stData .rdPop .read 0 2 [] [0x5A]))).map (fun t => (t.seq, t.idx, t.buf)) =
      some (.rdPoll, 1, [(0, 0x5A)]) := by decide
theorem test_step_d13 :
    (after (step (stData .rdPop .read 1 2 [0x5A] [0xA5]))).map (fun t => (t.seq, t.idx, t.buf)) =
      some (.dataComplete, 2, [(0, 0x5A), (1, 0xA5)]) := by decide
theorem test_step_d16 :
    seen (step (stData .wrPush .write 0 1 [0x7E])) = some (.wrDrain, 1, [.wr .dr (.byte 0x7E)]) := by decide
/-- D19: in FAULTED no step applies (R129). -/
theorem test_step_d19 : after (step { st .faulted .read with port := [⟨⟨0, 0, 0, 0⟩, none⟩] }) = none := by decide
/-- D20: a second request is not taken. -/
theorem test_step_d20 :
    (after (step { st .busywait .cmd [0x20] with port := [⟨⟨0, 0, 0, 0⟩, none⟩] })).map (fun t => (t.seq, t.port.length)) =
      some (.busywait, 1) := by decide

/-- Steps 3 to 5 of P1a, one state each: the configuration writes of `CMD i=0x06/1`. -/
def p1a (q : Seq) : State := { State.reset with seq := q, d := latchOf ⟨0x06000010, 0, 0, 0⟩ }
theorem test_step_abr : seen (step (p1a .cfgAbr)) = some (.cfgCcr, 0, [.wr .abr (.word 0)]) := by decide
theorem test_step_ccr : seen (step (p1a .cfgCcr)) = some (.cfgAr, 0, [.wr .ccr (.word 0x106)]) := by decide
theorem test_step_ar : seen (step (p1a .cfgAr)) = some (.cmdWait, 0, [.wr .ar (.word 0)]) := by decide
/-- P4a, step 6: MAP ends with the write of AR. -/
theorem test_step_ar_map :
    seen (step { st .cfgAr .map with d := latchOf ⟨0xEB242FD3, 0, 0xA0, 0⟩ }) =
      some (.mappedActive, 0, [.wr .ar (.word 0)]) := by decide

/-- The word of `READ i=0xEB/4 a=0x001000/4 dc=4 d=4 len=256` in the table's numbering. -/
def readNumber : Nat := 0x000001000000000000001000EB042CF1
/-- A step from reset with a request in place accepts it (R114). -/
theorem test_withFetchWord :
    (after (step (State.reset.withFetchWord 128 readNumber))).map (fun t => (t.seq, t.d.op, t.d.addr, t.len, t.port)) =
      some (.busywait, .read, 0x1000, 0x100, []) := by decide
/-- It does so from a state in FAULTED too. -/
theorem test_withFetchWord_faulted :
    seen (step ((st .faulted .read).withFetchWord 32 0x06000010)) = some (.busywait, 0, []) := by decide
/-- P1b, step 1: a WRITE comes with the buffer that the host names. -/
theorem test_accept_names_buffer :
    (after (step { State.reset with
      port := [⟨⟨0x02002452, 0x100, 0, 4⟩, some [0xDE, 0xAD, 0xBE, 0xEF]⟩] })).map (fun t => bufBytes t.buf 4) =
      some [0xDE, 0xAD, 0xBE, 0xEF] := by decide
/-- The flags are tested at the indices that State carries (R6, R24): here BUSY is bit 9. -/
theorem test_other_sr_layout :
    seen (step { st .busywait .cmd [0x20] with params := { defaultParams with sr := { srLayout with busy := 9 } } }) =
      some (.cfgAbr, 0, [srRead 0x20]) := by decide
/-- 10_state.md R33: the threshold is stored as the value less 1. -/
theorem test_stored_threshold (c : Config.Setup) : Config.Setup.storedFifoThreshold { c with fifoThreshold := 32 } = 31 := rfl
theorem test_reset_from_faulted :
    seen (step { st .faulted .read with resetIn := true, fault := true, cause := 1 }) = some (.idle, 0, []) := by decide
/-- The canonical form of the buffer: writing what an unlisted index reads as removes the entry. -/
theorem test_memory_write_blank : Memory.write [(0, 1), (3, 7)] 3 0 = [(0, 1)] := by decide


/-! ### Witnesses: for each statement with hypotheses, values that meet all of them together -/

theorem witness_DecodeOfEncodeIsTheInstruction :
    (Instr.write { ilw := .quad, addr := ⟨.w2, 0xFFFF⟩, dcyc := 31, sioo := true } 0xFFFFFFFF).wf = true := by decide
theorem witness_DecodedInstructionIsWellFormed : decode (.request ⟨1, 0xFFFF, 0, 0⟩) = .ok (.read { addr := ⟨.w1, 0xFF⟩ } 0) := by
  decide
theorem witness_EncodeOfDecodeIsTheMaskedWord :
    decodeRequest ⟨0x03003411, 0x1234, 0xFFFFFFA5, 1⟩ =
      .ok (.read { ilw := .single, instr := 3, addr := ⟨.w4, 0x1234⟩, alt := ⟨.w1, 0xA5⟩, dlw := .single } 1) := by decide
theorem witness_RequestBytesDecodeAsTheirWords :
    ([] : List Byte).length ≠ 16 ∧ (reqWordBytes ⟨0, 0, 0, 0x12345678⟩)[15]? = some 0x12 := by decide
theorem witness_WorkedEncodingsDecode : decode (.access ⟨.write, .dr, 1⟩) = .ok .wrDr8 := by decide
theorem witness_AssembledLineIsARequest :
    assembleLine ['C', 'M', 'D', ' ', 'a', '=', '0', 'x', 'F', 'F', '0', '0', '/', '2'] =
      some (.cmd { adlw := .dual, addr := ⟨.w2, 0xFF00⟩ }) := by decide
theorem witness_ArgumentFromNumberTruncates : (argBytes (argFromU32 0x12345678 .w4))[3]? = some 0x12 := by decide
theorem witness_SizeCodeFollowsTheByteWidth :
    (latchOf ⟨0xFF3FFFFA, 0, 0, 1⟩).adlw ≠ .none ∧ (latchOf ⟨0xFF3FFFFA, 0, 0, 1⟩).ablw ≠ .none := by decide
/-- D6: the default layout of R23 is one of disjoint fields; bits 23 and 29 belong to no field. -/
theorem witness_CcrFieldsReadBackUnderEveryDisjointLayout :
    ccrLayout.disjoint ∧ (∀ f ∈ ccrLayout.slots, 23 < f.1 ∨ f.1 + f.2 ≤ 23) ∧
      (∀ f ∈ ccrLayout.slots, 29 < f.1 ∨ f.1 + f.2 ≤ 29) := by
  unfold Config.CcrLayout.disjoint
  decide
theorem witness_AbsentPhaseIsNotRead :
    Latch.reset.ilw = .none ∧ Latch.reset.adlw = .none ∧ Latch.reset.ablw = .none := by decide

theorem witness_NoRequestWritesThePollCode : ccrLayout.disjoint := by
  unfold Config.CcrLayout.disjoint
  decide

/-- Every accepting state: the hypothesis of the four statements about a request's own step. -/
theorem witness_CmdFillsTheLatch : (st .idle .cmd).seq.accepting = true := by decide
theorem witness_ReadFillsTheLatch : (st .cmdComplete .cmd).seq.accepting = true := by decide
theorem witness_WriteFillsTheLatch : (st .dataComplete .read).seq.accepting = true := by decide
theorem witness_MapFillsTheLatch : (st .mappedActive .map).seq.accepting = true := by decide
theorem witness_OfferedRequestWaitsWhileInFlight :
    (st .busywait .cmd [0]).seq.accepting = false ∧ encode (.cmd {}) = .request ⟨0, 0, 0, 0⟩ ∧
      (after (step (st .busywait .cmd [0]))).isSome = true := by decide
/-- P4b, step 1: a CMD offered in MAPPED_ACTIVE, and each clause on BUF: a CMD and a MAP, a READ and a WRITE that name bytes,
and one that names none. -/
theorem witness_AcceptanceLatchesTheOfferedWord :
    (st .mappedActive .map).resetIn = false ∧ (st .mappedActive .map).seq.accepting = true ∧
      decodeRequest ⟨0x20002050, 0xFF001000, 0, 0⟩ =
        .ok (.cmd { ilw := .single, instr := 0x20, adlw := .single, addr := ⟨.w3, 0x1000⟩ }) ∧
      decodeRequest ⟨3, 0, 0, 0⟩ = .ok (.map {}) ∧ decodeRequest ⟨1, 0, 0, 1⟩ = .ok (.read {} 1) ∧
      decodeRequest ⟨2, 0, 0, 1⟩ = .ok (.write {} 1) ∧
      (⟨⟨2, 0, 0, 1⟩, some [9]⟩ : Offer).buf = some [9] ∧ ([9] : List Byte)[0]? = some 9 ∧
      (⟨⟨1, 0, 0, 1⟩, none⟩ : Offer).buf = none := by decide
theorem witness_NoRequestAndRefusedWordChangeNothing :
    State.reset.resetIn = false ∧ State.reset.seq.accepting = true ∧ State.reset.port = [] ∧
      decodeRequest ⟨0x00400000, 0, 0, 0⟩ = .refused .reservedBits := by decide

theorem witness_BusyWaitReadsSrAndTestsBusy : (st .busywait .map [0xFFFFFFDF]).seq = .busywait := rfl
theorem witness_CommandWaitReadsSrAndTestsTransferComplete : (st .cmdWait .cmd [0x22]).seq = .cmdWait := rfl
theorem witness_ReadPollReadsSrAndTestsEitherFlag : (st .rdPoll .read [0x02]).seq = .rdPoll := rfl
theorem witness_WritePollReadsSrAndTestsFifoThreshold : (st .wrPoll .write [0x02]).seq = .wrPoll := rfl
theorem witness_WriteDrainReadsSrAndTestsTransferComplete : (st .wrDrain .write [0x04]).seq = .wrDrain := rfl
/-- Each clause, at the boundary of `LEN`. -/
theorem witness_LengthStepProgramsOrFaults :
    (stData .lenprog .read 0 1).seq = .lenprog ∧ (stData .lenprog .read 0 1).len ≠ 0 ∧
      (stData .lenprog .write 0 0).seq = .lenprog ∧ (stData .lenprog .write 0 0).len = 0 := by decide
theorem witness_ConfigWritesAbr : (p1a .cfgAbr).seq = .cfgAbr := rfl
theorem witness_ConfigWritesCcr : (p1a .cfgCcr).seq = .cfgCcr := rfl
theorem witness_ConfigWritesAr : (p1a .cfgAr).seq = .cfgAr := rfl
theorem witness_ReadPopStoresTheByte :
    (stData .rdPop .read 1 2 [0x5A] [0xA5]).seq = .rdPop ∧ (1 : Word).toNat < (2 : Word).toNat ∧
      Memory.wf (stData .rdPop .read 1 2 [0x5A] [0xA5]).buf = true := by decide
theorem witness_WritePushSendsTheByte :
    (stData .wrPush .write 0 1 [0x7E]).seq = .wrPush ∧ (0 : Word).toNat < (1 : Word).toNat := by decide
/-- Each clause: an access in a state that issues another one, and a byte access at `IDX = LEN`. -/
theorem witness_AccessElsewhereStopsByName :
    encode .wrDlr = .access (⟨.write, .dlr, 4⟩) ∧ issued (st .idle .cmd).seq ≠ some .wrDlr ∧
      issued (st .cfgAbr .cmd).seq ≠ some .wrDlr ∧
      encode .rdDr8 = .access (⟨.read, .dr, 1⟩) ∧ issued (stData .rdPop .read 1 1).seq = some .rdDr8 ∧
      encode .wrDr8 = .access (⟨.write, .dr, 1⟩) ∧ issued (stData .wrPush .write 1 1).seq = some .wrDr8 ∧
      (1 : Word).toNat ≤ (1 : Word).toNat := by decide
/-- Each clause: B15 launches with CCR, B5 with AR, B8 with its first byte. -/
theorem witness_LaunchFollowsTheLaunchPoint :
    (after (exec .wrCcr { st .cfgCcr .read with d := latchOf ⟨0x05000411, 0, 0, 1⟩ })).map (·.periph.launched) = some true ∧
    (after (exec .wrAr { st .cfgAr .cmd with d := latchOf ⟨0x20002050, 0x1000, 0, 0⟩ })).map (·.periph.launched) = some true ∧
    (latchOf ⟨0x20002050, 0x1000, 0, 0⟩).dlw = .none ∧
    (after (exec .wrDr8 { stData .wrPush .write 0 1 [1] with d := latchOf ⟨0x00000802, 0, 0, 1⟩ })).map (·.periph.launched) =
      some true := by decide

theorem witness_StepRunsTheNextInstruction :
    issued (st .rdPop .read).seq = some .rdDr8 ∧ (st .idle .cmd).seq.accepting = true ∧ (st .idle .cmd).resetIn = false ∧
      decode (.request ⟨0x06000010, 0, 0, 0⟩) = .ok (.cmd { ilw := .single, instr := 6 }) := by decide
theorem witness_FaultedHasNoStep :
    (st .faulted .read).seq = .faulted ∧ (st .faulted .read).resetIn = false ∧
      encode (.cmd {}) = .request ⟨0, 0, 0, 0⟩ := by decide
theorem witness_ResetPutsTheBlockInIdle : ({ st .rdPop .read with resetIn := true } : State).resetIn = true := rfl

/-- The state that a zero-length READ stands in after its fault. -/
def faultedState : State := { st .faulted .read with fault := true, cause := 1 }

theorem faultedState_inv : faultedState.Inv := by
  refine ⟨⟨?_, ?_, ?_⟩, ?_, ?_, ?_, ?_, ?_, ?_, ?_, ?_, ?_, ?_, ?_, ?_, ?_⟩ <;> decide

theorem witness_FaultIsClearedOnlyByReset :
    faultedState.Inv ∧ faultedState.fault = true ∧
      ({ faultedState with resetIn := true } : State).Inv ∧
      seen (step { faultedState with resetIn := true }) = some (.idle, 0, []) :=
  ⟨faultedState_inv, rfl, by
    refine ⟨⟨?_, ?_, ?_⟩, ?_, ?_, ?_, ?_, ?_, ?_, ?_, ?_, ?_, ?_, ?_, ?_, ?_⟩ <;> decide, by decide⟩

theorem lenprog_inv (n : Word) : (stData .lenprog .read 0 n).Inv :=
  ⟨⟨(by decide : (0#32).toNat < 2 ^ (8 * 1)), (by decide : (0#32).toNat < 2 ^ (8 * 1)), fun h => (by cases h)⟩, fun h => (by rcases h with h | h <;> cases h), Nat.zero_le _, rfl,
    fun _ => rfl, fun h => (by cases h), fun h => (by rcases h with h | h <;> cases h), fun h => (by cases h),
    ⟨fun h => (by cases h), fun h => (by cases h)⟩, rfl, fun h => (by cases h), rfl,
    fun e he => (by cases he), (by decide : addressMap.wf)⟩

theorem witness_FaultComesOnlyFromAZeroLength :
    (stData .lenprog .read 0 0).Inv ∧ (stData .lenprog .read 0 0).resetIn = false ∧
      (stData .lenprog .read 0 0).fault = false ∧
      (after (step (stData .lenprog .read 0 0))).map (·.fault) = some true :=
  ⟨lenprog_inv 0, rfl, rfl, by decide⟩
theorem witness_StepKeepsTheInvariant :
    (stData .lenprog .read 0 0xFFFFFFFF).Inv ∧
      seen (step (stData .lenprog .read 0 0xFFFFFFFF)) = some (.cfgAbr, 0, [.wr .dlr (.word 0xFFFFFFFE)]) :=
  ⟨lenprog_inv _, by decide⟩
/-- Each alternative: a state that is not FAULTED, and FAULTED with the reset input asserted. -/
theorem witness_EveryStepCompletesOutsideFaulted :
    (stData .lenprog .read 0 1).Inv ∧ (stData .lenprog .read 0 1).seq ≠ .faulted ∧
      ({ faultedState with resetIn := true } : State).Inv ∧ ({ faultedState with resetIn := true } : State).resetIn = true :=
  ⟨lenprog_inv 1, by decide, witness_FaultIsClearedOnlyByReset.2.2.1, rfl⟩
/-- Outside the accepting states, and in one with a request offered and with none. -/
theorem witness_EveryStepIsAnArcOfTheTransitionTable :
    ((stData .lenprog .read 0 1).Inv ∧ (stData .lenprog .read 0 1).resetIn = false ∧
      seen (step (stData .lenprog .read 0 1)) = some (.cfgAbr, 0, [.wr .dlr (.word 0)])) ∧
    (State.reset.Inv ∧ State.reset.resetIn = false ∧ seen (step State.reset) = some (.idle, 0, [])) ∧
    ((State.reset.withFetchWord 32 0x06000010).Inv ∧ (State.reset.withFetchWord 32 0x06000010).requestOffered ∧
      seen (step (State.reset.withFetchWord 32 0x06000010)) = some (.busywait, 0, [])) :=
  ⟨⟨lenprog_inv 1, rfl, by decide⟩,
    ⟨by refine ⟨⟨?_, ?_, ?_⟩, ?_, ?_, ?_, ?_, ?_, ?_, ?_, ?_, ?_, ?_, ?_, ?_, ?_⟩ <;> decide, rfl, by decide⟩,
    ⟨by refine ⟨⟨?_, ?_, ?_⟩, ?_, ?_, ?_, ?_, ?_, ?_, ?_, ?_, ?_, ?_, ?_, ?_, ?_⟩ <;> decide,
      ⟨_, _, .cmd { ilw := .single, instr := 0x06 }, rfl, by decide⟩, by decide⟩⟩
/-- A step that writes neither latch nor length, in a state that accepts nothing and in one where nothing is offered. -/
theorem witness_LatchIsWrittenOnlyByAcceptance :
    (stData .rdPop .read 0 2 [] [7]).resetIn = false ∧ (stData .rdPop .read 0 2 [] [7]).seq.accepting = false ∧
      seen (step (stData .rdPop .read 0 2 [] [7])) = some (.rdPoll, 1, [.rd .dr (.byte 7)]) ∧
      (State.reset.seq.accepting = true ∧ seen (step State.reset) = some (.idle, 0, [])) := by decide
/-- Each clause: a byte read, and a WRITE accepted with a named buffer. -/
theorem witness_BufferIsWrittenOnlyByReadPop :
    (Memory.wf (stData .rdPop .read 0 2 [1, 2] [7]).buf = true ∧ (stData .rdPop .read 0 2 [1, 2] [7]).seq.accepting = false ∧
      (after (step (stData .rdPop .read 0 2 [1, 2] [7]))).map (·.buf) = some [(0, 7), (1, 2)]) ∧
    (Memory.wf State.reset.buf = true ∧ State.reset.seq.accepting = true ∧
      (after (step { State.reset with port := [⟨⟨2, 0, 0, 1⟩, some [9]⟩] })).map (·.buf) = some [(0, 9)]) := by decide
theorem witness_BlockNeverReadsThePeripheral : (after (step (p1a .cfgCcr))).isSome = true := by decide
/-- Each alternative: nothing offered, and a request accepted. -/
theorem witness_LatchIsNotReadBeforeAcceptance :
    State.reset.resetIn = false ∧ State.reset.seq = .idle ∧ seen (step State.reset) = some (.idle, 0, []) ∧
      seen (step { State.reset with port := [⟨⟨0, 0, 0, 0⟩, none⟩] }) = some (.busywait, 0, []) := by decide

/-! Whole requests: the shortest run of each kind, one state to start from and what its last step leaves. -/

/-- A run of `k` steps that ends in the sequencer state `q` reaches a state there. -/
theorem reaches_end {k : Nat} {s : State} {q : Seq} (h : (after (Host.Core.run core k s)).map (·.seq) = some q) :
    ∃ t, Reaches s t ∧ t.seq = q := by
  cases hr : Host.Core.run core k s with
  | next t =>
    refine ⟨t, Reaches.of_run hr, ?_⟩
    rw [hr] at h
    exact Option.some.inj h
  | fault r => rw [hr] at h; cases h
  | refused r => rw [hr] at h; cases h

/-- A request that has just been accepted, with an empty port. -/
def begun (op : ReqKind) (len : Word) (sr : List Word) (dr : List Byte) (buf : List Byte) : State :=
  { stData .busywait op 0 len buf dr with srScript := sr }

theorem begun_inv {op : ReqKind} {len : Word} {sr : List Word} {dr buf : List Byte}
    (h : op = .cmd ∨ op = .map → len = 0) : (begun op len sr dr buf).Inv :=
  ⟨⟨(by decide : (0#32).toNat < 2 ^ (8 * 1)), (by decide : (0#32).toNat < 2 ^ (8 * 1)),
    fun _ => ⟨rfl, rfl, rfl⟩⟩, h, Nat.zero_le _, rfl, fun _ => rfl, fun h => (by cases h),
    fun h => (by rcases h with h | h <;> cases h), fun h => (by cases h), ⟨fun h => (by cases h), fun h => (by cases h)⟩, rfl,
    fun h => (by cases h), Memory.ofBytes_wf buf, fun e he => (by cases he), (by decide : addressMap.wf)⟩

theorem witness_CompletedCommandHasItsTrace :
    (begun .cmd 0 [0, 2] [] []).Inv ∧ (begun .cmd 0 [0, 2] [] []).seq = .busywait ∧ (begun .cmd 0 [0, 2] [] []).d.op = .cmd ∧
      (begun .cmd 0 [0, 2] [] []).port = [] ∧ (begun .cmd 0 [0, 2] [] []).resetIn = false ∧
      ∃ t, Reaches (begun .cmd 0 [0, 2] [] []) t ∧ t.seq = .cmdComplete :=
  ⟨begun_inv fun _ => rfl, rfl, rfl, rfl, rfl, reaches_end (k := 5) (by decide)⟩
theorem witness_CompletedReadFillsTheBuffer :
    (begun .read 1 [0, 4] [7] []).Inv ∧ (begun .read 1 [0, 4] [7] []).seq = .busywait ∧
      (begun .read 1 [0, 4] [7] []).d.op = .read ∧ (begun .read 1 [0, 4] [7] []).port = [] ∧
      (begun .read 1 [0, 4] [7] []).resetIn = false ∧ ∃ t, Reaches (begun .read 1 [0, 4] [7] []) t ∧ t.seq = .dataComplete :=
  ⟨begun_inv (fun h => by rcases h with h | h <;> cases h), rfl, rfl, rfl, rfl, reaches_end (k := 7) (by decide)⟩
theorem witness_CompletedWriteSendsTheBuffer :
    (begun .write 1 [0, 4, 2] [] [9]).Inv ∧ (begun .write 1 [0, 4, 2] [] [9]).seq = .busywait ∧
      (begun .write 1 [0, 4, 2] [] [9]).d.op = .write ∧ (begun .write 1 [0, 4, 2] [] [9]).port = [] ∧
      (begun .write 1 [0, 4, 2] [] [9]).resetIn = false ∧
      ∃ t, Reaches (begun .write 1 [0, 4, 2] [] [9]) t ∧ t.seq = .dataComplete :=
  ⟨begun_inv (fun h => by rcases h with h | h <;> cases h), rfl, rfl, rfl, rfl, reaches_end (k := 8) (by decide)⟩
theorem witness_MappedRequestHasNoCompletionPoll :
    (begun .map 0 [0] [] []).Inv ∧ (begun .map 0 [0] [] []).seq = .busywait ∧ (begun .map 0 [0] [] []).d.op = .map ∧
      (begun .map 0 [0] [] []).port = [] ∧ (begun .map 0 [0] [] []).resetIn = false ∧
      ∃ t, Reaches (begun .map 0 [0] [] []) t ∧ t.seq = .mappedActive :=
  ⟨begun_inv fun _ => rfl, rfl, rfl, rfl, rfl, reaches_end (k := 4) (by decide)⟩
theorem witness_ZeroLengthRequestWritesNothing :
    (begun .read 0 [0] [] []).Inv ∧ (begun .read 0 [0] [] []).seq = .busywait ∧ (begun .read 0 [0] [] []).port = [] ∧
      (begun .read 0 [0] [] []).resetIn = false ∧ ∃ t, Reaches (begun .read 0 [0] [] []) t ∧ t.seq = .faulted :=
  ⟨begun_inv fun _ => rfl, rfl, rfl, rfl, reaches_end (k := 2) (by decide)⟩
/-- The third answer ends the poll. -/
theorem witness_PollEndsUnderItsLivenessPremise :
    (st .rdPoll .read [0, 0x20, 2]).resetIn = false ∧ (st .rdPoll .read [0, 0x20, 2]).seq.polling = true ∧
      (st .rdPoll .read [0, 0x20, 2]).Live (st .rdPoll .read [0, 0x20, 2]).seq :=
  ⟨rfl, rfl, 2, by decide⟩
theorem witness_WaitingIsUnbounded :
    (st .busywait .cmd [0x20, 0x20]).resetIn = false ∧ (st .busywait .cmd [0x20, 0x20]).seq.polling = true ∧
      ∀ n < 2, pollEnds srLayout (st .busywait .cmd [0x20, 0x20]).seq ((st .busywait .cmd [0x20, 0x20]).srAnswerAt n) = false :=
  ⟨rfl, rfl, by decide⟩
/-- Two bytes, the first after one fruitless poll, the second on TCF alone. -/
theorem witness_ReadReachesDataComplete :
    let s := begun .read 2 [0x20, 0, 0x20, 4, 2] [7, 8] []
    let groups : List (List Word × Word × Byte) := [([0x20], 4, 7), ([], 2, 8)]
    s.Inv ∧ s.resetIn = false ∧ s.seq = .busywait ∧ s.d.op = .read ∧ s.len.toNat = groups.length ∧ groups ≠ [] ∧
      (∀ v ∈ [(0x20 : Word)], srBusy srLayout v = true) ∧ srBusy srLayout 0 = false ∧
      (∀ g ∈ groups, (∀ v ∈ g.1, srFtf srLayout v = false ∧ srTcf srLayout v = false) ∧ (srFtf srLayout g.2.1 = true ∨ srTcf srLayout g.2.1 = true)) ∧
      s.srScript = [0x20] ++ [0] ++ groups.flatMap (fun g => g.1 ++ [g.2.1]) ++ [] ∧
      s.drScript = groups.map (fun g => g.2.2) ++ [] :=
  ⟨begun_inv (fun h => by rcases h with h | h <;> cases h), rfl, rfl, rfl, rfl, by decide, List.forall_mem_singleton.2 rfl,
    rfl, List.forall_mem_cons.2 ⟨⟨List.forall_mem_singleton.2 ⟨rfl, rfl⟩, .inl rfl⟩,
      List.forall_mem_singleton.2 ⟨fun v hv => (by cases hv), .inr rfl⟩⟩, rfl, rfl⟩
theorem witness_WriteReachesDataComplete :
    let s := begun .write 2 [0x20, 0, 2, 4, 4, 0x20, 2] [] [7, 8]
    let groups : List (List Word × Word) := [([2], 4), ([], 4)]
    s.Inv ∧ s.resetIn = false ∧ s.seq = .busywait ∧ s.d.op = .write ∧ s.len.toNat = groups.length ∧ groups ≠ [] ∧
      (∀ v ∈ [(0x20 : Word)], srBusy srLayout v = true) ∧ srBusy srLayout 0 = false ∧
      (∀ g ∈ groups, (∀ v ∈ g.1, srFtf srLayout v = false) ∧ srFtf srLayout g.2 = true) ∧
      (∀ v ∈ [(0x20 : Word)], srTcf srLayout v = false) ∧ srTcf srLayout 2 = true ∧
      s.srScript = [0x20] ++ [0] ++ groups.flatMap (fun g => g.1 ++ [g.2]) ++ [0x20] ++ [2] ++ [] :=
  ⟨begun_inv (fun h => by rcases h with h | h <;> cases h), rfl, rfl, rfl, rfl, by decide, List.forall_mem_singleton.2 rfl,
    rfl, List.forall_mem_cons.2 ⟨⟨List.forall_mem_singleton.2 rfl, rfl⟩,
      List.forall_mem_singleton.2 ⟨fun v hv => (by cases hv), rfl⟩⟩, List.forall_mem_singleton.2 rfl, rfl, rfl⟩
/-- Each clause: a CMD, and a MAP whose answers end with the clear read. -/
theorem witness_CommandAndMapReachTheirEnds :
    (let s := begun .cmd 0 [0x20, 0, 0x20, 2] [] []
     s.Inv ∧ s.resetIn = false ∧ s.seq = .busywait ∧ s.d.op = .cmd ∧
      (∀ v ∈ [(0x20 : Word)], srBusy s.params.sr v = true) ∧ srBusy s.params.sr 0 = false ∧
      (∀ v ∈ [(0x20 : Word)], srTcf s.params.sr v = false) ∧ srTcf s.params.sr 2 = true ∧
      s.srScript = [0x20] ++ [0] ++ [0x20] ++ [2] ++ []) ∧
    (let s := begun .map 0 [0x20, 0] [] []
     s.Inv ∧ s.resetIn = false ∧ s.seq = .busywait ∧ s.d.op = .map ∧
      (∀ v ∈ [(0x20 : Word)], srBusy s.params.sr v = true) ∧ srBusy s.params.sr 0 = false ∧
      s.srScript = [0x20] ++ [0] ++ []) :=
  ⟨⟨begun_inv fun _ => rfl, rfl, rfl, rfl, List.forall_mem_singleton.2 rfl, rfl, List.forall_mem_singleton.2 rfl, rfl, rfl⟩,
    begun_inv fun _ => rfl, rfl, rfl, rfl, List.forall_mem_singleton.2 rfl, rfl, rfl⟩
/-- The default map keeps the registers apart at multiples of 4, another does not, and 0xA000100C is the address of none. -/
theorem witness_ParametersAreArguments :
    addressMap.wf ∧ State.reset.Inv ∧ regAddr { addressMap with offSr := 9 } .sr % 4 ≠ 0 ∧ (∀ r : Reg, regAddr addressMap r ≠ 0xA000100C) ∧ seen (step State.reset) = some (.idle, 0, []) :=
  ⟨by decide, by refine ⟨⟨?_, ?_, ?_⟩, ?_, ?_, ?_, ?_, ?_, ?_, ?_, ?_, ?_, ?_, ?_, ?_, ?_⟩ <;> decide, by decide, fun r => by cases r <;> decide, by decide⟩

end Sys2Proof.Tests
end

section
/-! SUPPORT. The addresses of the six registers under a map that spec 20_memory.md R44 and R50 allow, the register found at an
address, and the decoder of an access by its numeric address. -/

namespace Sys2Proof.Machine

open Sys2Proof

/-- The six registers of the downstream port (R22), in the order in which `regOfAddr` looks for them. -/
def registers : List Reg := [.sr, .dlr, .ccr, .ar, .abr, .dr]

@[simp] theorem mem_registers (r : Reg) : r ∈ registers := by cases r <;> decide

theorem regOfAddr_eq_find (m : Config.AddressMap) (a : Nat) :
    regOfAddr m a = registers.find? fun r => regAddr m r == a := rfl

theorem map_regAddr_registers (m : Config.AddressMap) :
    registers.map (regAddr m) = m.offsets.map (m.qspiBase + ·) := rfl

/-- Different offsets give the registers different addresses. -/
theorem regAddr_injective {m : Config.AddressMap} (h : m.distinct) : Function.Injective (regAddr m) := by
  have hnodup : (registers.map (regAddr m)).Nodup := by
    rw [map_regAddr_registers]
    exact h.map fun _ _ => Nat.add_left_cancel
  exact fun q r hqr => List.inj_on_of_nodup_map hnodup (mem_registers q) (mem_registers r) hqr

/-- Under an aligned map every register stands at a multiple of 4 (R44). -/
theorem regAddr_mod_four {m : Config.AddressMap} (h : m.aligned) (r : Reg) : regAddr m r % 4 = 0 := by
  obtain ⟨hbase, hoffsets⟩ := h
  have hmem : regAddr m r ∈ m.offsets.map (m.qspiBase + ·) :=
    map_regAddr_registers m ▸ List.mem_map_of_mem (mem_registers r)
  obtain ⟨off, hoff, hr⟩ := List.mem_map.1 hmem
  have := hoffsets off hoff
  omega

theorem regAddr_of_regOfAddr {m : Config.AddressMap} {a : Nat} {r : Reg} (h : regOfAddr m a = some r) :
    regAddr m r = a := by
  rw [regOfAddr_eq_find] at h
  simpa using List.find?_some h

theorem regOfAddr_eq_none_iff (m : Config.AddressMap) (a : Nat) :
    regOfAddr m a = none ↔ ∀ r, regAddr m r ≠ a := by
  simp [regOfAddr_eq_find]

/-- Some register, under a map of any kind, is found at a register's address. -/
theorem exists_regOfAddr_regAddr (m : Config.AddressMap) (r : Reg) : ∃ q, regOfAddr m (regAddr m r) = some q :=
  Option.ne_none_iff_exists'.1 fun h => (regOfAddr_eq_none_iff m _).1 h r rfl

/-- Under a map that keeps the registers apart, the register found at a register's address is that register. -/
theorem regOfAddr_regAddr {m : Config.AddressMap} (h : m.distinct) (r : Reg) : regOfAddr m (regAddr m r) = some r := by
  obtain ⟨q, hq⟩ := exists_regOfAddr_regAddr m r
  rw [hq, regAddr_injective h (regAddr_of_regOfAddr hq)]

theorem decodeBus_of_register {m : Config.AddressMap} {addr : Nat} {r : Reg} (h : regOfAddr m addr = some r)
    (dir : Dir) (bytes : Nat) : decodeBus m dir addr bytes =
      if bytes = 4 ∧ addr % 4 ≠ 0 then .refused .misaligned else decodeAccess ⟨dir, r, bytes⟩ := by
  simp only [decodeBus, h]

theorem decodeBus_of_no_register {m : Config.AddressMap} {addr : Nat} (h : regOfAddr m addr = none)
    (dir : Dir) (bytes : Nat) : decodeBus m dir addr bytes = .refused .noSuchAccess := by
  simp only [decodeBus, h]

/-- A 4-byte access at a register's address that is no multiple of 4 is refused, whatever the map (R44). -/
theorem decodeBus_misaligned (m : Config.AddressMap) (dir : Dir) (r : Reg) (h : regAddr m r % 4 ≠ 0) :
    decodeBus m dir (regAddr m r) 4 = .refused .misaligned := by
  obtain ⟨q, hq⟩ := exists_regOfAddr_regAddr m r
  rw [decodeBus_of_register hq, if_pos ⟨rfl, h⟩]

/-- Under an allowed map an access decodes by its register's address as by the register's name (R41, R50, R78). -/
theorem decodeBus_regAddr {m : Config.AddressMap} (h : m.wf) (a : Access) :
    decodeBus m a.dir (regAddr m a.reg) a.bytes = decode (.access a) := by
  obtain ⟨hdistinct, haligned⟩ := h
  rw [decodeBus_of_register (regOfAddr_regAddr hdistinct a.reg),
    if_neg fun hmis => hmis.2 (regAddr_mod_four haligned a.reg), decode]

/-- Settles O60: the frame of the step is `step_params`, alignment a part of the invariant, and the decoder by address finds the
one register at an address. -/
theorem parametersAreArguments : Obligations.ParametersAreArguments := by
  unfold Obligations.ParametersAreArguments
  refine ⟨fun _ _ => step_params, fun s hs r => ?aligned, decodeBus_misaligned, fun m hm => ⟨decodeBus_regAddr hm, ?hole⟩⟩
  case aligned =>
    obtain ⟨-, haligned⟩ := hs.addr_wf
    exact regAddr_mod_four haligned r
  case hole =>
    exact fun dir addr bytes hnone => decodeBus_of_no_register ((regOfAddr_eq_none_iff m addr).2 hnone) dir bytes

end Sys2Proof.Machine
end

section
/-! SUPPORT. What a step answers, as equations in the direction from the state: reset, no request, acceptance, and the next state
while a request is in flight (`State.served`); and what the step reads of the port, the peripheral and the latch (spec
10_state.md R30, R35, R39). -/

namespace Sys2Proof.Machine

open Sys2Proof

/-! ### The latch that an acceptance leaves -/

theorem decodeCommand_wf (w : ReqWord) (ddr : DdrMode) : (decodeCommand w ddr).wf = true := by
  simp [Command.wf, decodeCommand, maskedArgument_wf]

theorem latchCommand_inv {c : Command} (hc : c.wf = true) (op : ReqKind) : (latchCommand op c).Inv := by
  simp only [Command.wf, Argument.wf, Bool.and_eq_true, decide_eq_true_eq] at hc
  exact ⟨hc.1, hc.2, fun _ => ⟨rfl, rfl, rfl⟩⟩

theorem latchIoCommand_inv {io : IoCommand} (hio : io.toCommand.wf = true) {op : ReqKind} (hop : op ≠ .cmd) :
    (latchIoCommand op io).Inv :=
  have hc := latchCommand_inv hio op
  ⟨hc.addr_fits, hc.alt_fits, fun h => absurd h hop⟩

/-- The latch of a decoded word, in the form in which `exec_of_decodeRequest` gives it. -/
theorem Latch.inv_of_decoded {w : ReqWord} {d : Latch}
    (h : d = latchCommand .cmd (decodeCommand w d.ddr) ∨ d = latchIoCommand .read (decodeIoCommand w d.ddr) ∨
      d = latchIoCommand .write (decodeIoCommand w d.ddr) ∨ d = latchIoCommand .map (decodeIoCommand w d.ddr)) :
    d.Inv := by
  have hwf : (decodeIoCommand w d.ddr).toCommand.wf = true := decodeCommand_wf w d.ddr
  rcases h with h | h | h | h <;> rw [h]
  · exact latchCommand_inv (decodeCommand_wf _ _) _
  all_goals exact latchIoCommand_inv hwf nofun

theorem Latch.reset_inv : Latch.reset.Inv := ⟨by decide, by decide, fun _ => ⟨rfl, rfl, rfl⟩⟩

/-! ### The classes of steps -/

theorem step_of_reset {s : State} (hr : s.resetIn = true) : step s = .next s.applyReset := by
  simp [step, hr]

/-- With no well-formed request at the port nothing happens in an accepting state (R114). -/
theorem step_of_no_request {s : State} (hr : s.resetIn = false) (ha : s.seq.accepting = true)
    (hno : ¬s.requestOffered) : step s = .next s := by
  have hfetch : fetch s = none := by
    unfold fetch
    rw [if_pos ha]
    split
    · rfl
    · next o rest hp =>
      split
      · next i hd => exact absurd ⟨o, rest, i, hp, hd⟩ hno
      · rfl
  simp [step, hr, ne_faulted_of_accepting ha, hfetch]

/-- Acceptance (R114): the latch comes from the word alone, and is one that the invariant allows. -/
theorem step_accepts {o : Offer} {i : Instr} (hd : decodeRequest o.word = .ok i) :
    ∃ d : Latch, d.Inv ∧ (d.op = .cmd ∨ d.op = .map → o.word.w3 = 0) ∧
      ∀ (s : State) (rest : List Offer), s.resetIn = false → s.seq.accepting = true → s.port = o :: rest →
        step s = .next ((s.takeOffer i o rest).accept d o.word.w3) := by
  obtain ⟨d, hlatch, hlen, hexec⟩ := exec_of_decodeRequest hd
  refine ⟨d, Latch.inv_of_decoded hlatch, hlen, fun s rest hr ha hp => ?_⟩
  rw [step_accepting hr ha hp hd, hexec, State.offered_accepting (s := s.takeOffer i o rest) ha]

/-- The state after the access that the sequencer state issues (R115 to R127). -/
def State.served (s : State) : State :=
  match s.seq with
  | .busywait | .cmdWait | .rdPoll | .wrPoll | .wrDrain => s.poll (pollNext s)
  | .lenprog => if s.len = 0 then s.takeFault causeZeroLength else s.configWrite .dlr (dlr s.len) .cfgAbr
  | .cfgAbr => s.configWrite .abr (abr s.d) .cfgCcr
  | .cfgCcr => s.configWrite .ccr (ccr s.params.ccr s.d (fm s.d.op)) .cfgAr
  | .cfgAr => s.configWrite .ar (ar s.d) (afterConfig s.d.op)
  | .rdPop => s.stored.advance .rdPoll .dataComplete
  | .wrPush => (s.regWriteDr s.nextByte).advance .wrPoll .wrDrain
  | .idle | .cmdComplete | .dataComplete | .mappedActive | .faulted => s

/-- The step with a request in flight: the access is served, but for a byte step past the buffer (R52). -/
theorem step_eq_served {s : State} (hr : s.resetIn = false) (hf : s.seq.inFlight = true) :
    step s = if (s.seq = .rdPop ∨ s.seq = .wrPush) ∧ s.len.toNat ≤ s.idx.toNat then .fault .bufIndexOutOfRange
      else .next s.served := by
  obtain ⟨i, hi⟩ := issued_of_inFlight hf
  rw [step_inFlight hr hi]
  cases hq : s.seq <;> simp only [hq, issued, Seq.inFlight, Option.some.injEq, reduceCtorEq] at hi hf <;> subst hi
  case busywait | cmdWait | rdPoll | wrPoll | wrDrain => simp [exec, execRdSr, State.served, pollNext, hq]
  case lenprog =>
    simp only [exec, execWrDlr, State.served, hq, if_true]
    split <;> simp
  case cfgAbr => simp [exec, execWrAbr, State.served, hq]
  case cfgCcr => simp [exec, execWrCcr, State.served, hq]
  case cfgAr => simp [exec, execWrAr, State.served, hq]
  case rdPop =>
    by_cases hlt : s.idx.toNat < s.len.toNat
    · simp [exec, execRdDr8_of_lt hq hlt, State.served, hq, hlt]
    · simp [exec, execRdDr8, State.bufWrite, hq, hlt, Nat.not_lt.1 hlt]
  case wrPush =>
    by_cases hlt : s.idx.toNat < s.len.toNat
    · simp [exec, execWrDr8_of_lt hq hlt, State.served, hq, hlt]
    · simp [exec, execWrDr8, State.bufRead, hq, hlt, Nat.not_lt.1 hlt]

/-- Whether a step in flight answers a next state is decided by `SEQ`, `IDX` and `LEN`. -/
theorem step_served_congr {s s' t : State} (hf : s.seq.inFlight = true) (hr : s.resetIn = false)
    (hr' : s'.resetIn = false) (hseq : s'.seq = s.seq) (hidx : s'.idx = s.idx) (hlen : s'.len = s.len)
    (h : step s = .next t) : t = s.served ∧ step s' = .next s'.served := by
  rw [step_eq_served hr hf] at h
  rw [step_eq_served hr' (hseq ▸ hf), hseq, hidx, hlen]
  split at h
  · cases h
  · next hin =>
    cases h
    exact ⟨rfl, if_neg hin⟩

/-! ### What an access leaves unchanged -/

theorem State.served_d (s : State) : s.served.d = s.d := by
  cases hq : s.seq <;> simp [State.served, hq, apply_ite State.d]

theorem State.served_len (s : State) : s.served.len = s.len := by
  cases hq : s.seq <;> simp [State.served, hq, apply_ite State.len]

theorem State.served_port (s : State) : s.served.port = s.port := by
  cases hq : s.seq <;> simp [State.served, hq, apply_ite State.port]

/-- `IDX` moves by one, in the two byte steps (R124, R126). -/
theorem State.served_idx (s : State) :
    s.served.idx = s.idx ∨ ((s.seq = .rdPop ∨ s.seq = .wrPush) ∧ s.served.idx = s.idx + 1) := by
  cases hq : s.seq <;> simp [State.served, hq, apply_ite State.idx]

/-! ### What an access does not read -/

theorem State.served_with_port (s : State) (p : List Offer) :
    ({ s with port := p } : State).served = { s.served with port := p } := by
  obtain ⟨_, _, _, _, q, _⟩ := s
  cases q
  case lenprog =>
    dsimp only [State.served]
    split <;> rfl
  all_goals rfl

/-- The peripheral's registers reach no other part of the state (R35). -/
theorem State.served_with_periph (s : State) (p : Periph) :
    ∃ q : Periph, ({ s with periph := p } : State).served = { s.served with periph := q } := by
  refine ⟨({ s with periph := p } : State).served.periph, ?_⟩
  obtain ⟨_, _, _, _, q, _⟩ := s
  cases q
  case lenprog =>
    dsimp only [State.served]
    split <;> rfl
  all_goals rfl

/-! ### The statements -/

/-- Settles O36: `step_inFlight` and `step_accepting`. -/
theorem stepRunsTheNextInstruction : Obligations.StepRunsTheNextInstruction := by
  unfold Obligations.StepRunsTheNextInstruction
  exact fun s i hr => ⟨step_inFlight hr, fun o rest ha hp hd => step_accepting hr ha hp hd⟩

theorem Seq.accepting_iff (q : Seq) :
    q.accepting = true ↔ q = .idle ∨ q = .cmdComplete ∨ q = .dataComplete ∨ q = .mappedActive := by
  cases q <;> decide

/-- A request run outside the accepting states changes nothing (R30). -/
theorem exec_request_waiting {s : State} (ha : s.seq.accepting = false) {i : Instr} {w : ReqWord}
    (hi : encode i = .request w) : exec i s = .next s := by
  cases i with
  | cmd | read | write | map => exact congrArg Host.Outcome.next (State.offered_waiting ha _ _)
  | rdSr | wrDlr | wrAbr | wrCcr | wrAr | rdDr8 | wrDr8 => cases hi

/-- Settles O20: reset and every access leave the port and do not read it. -/
theorem offeredRequestWaitsWhileInFlight : Obligations.OfferedRequestWaitsWhileInFlight := by
  unfold Obligations.OfferedRequestWaitsWhileInFlight
  refine fun s => ⟨s.seq.accepting_iff, fun ha => ⟨fun i w => exec_request_waiting ha, fun t p h => ?_⟩⟩
  rcases step_cases h with ⟨hr, rfl⟩ | ⟨-, ha', -⟩ | ⟨-, ha', -⟩ | ⟨hr, hf, -⟩
  · exact ⟨rfl, step_of_reset hr⟩
  · exact absurd ha' (by simp [ha])
  · exact absurd ha' (by simp [ha])
  · obtain ⟨rfl, h'⟩ := step_served_congr (s' := { s with port := p }) hf hr hr rfl rfl rfl h
    exact ⟨s.served_port, by rw [h', State.served_with_port]⟩

/-- Settles O46: of the steps without reset, only an acceptance is more than `State.served`. -/
theorem latchIsWrittenOnlyByAcceptance : Obligations.LatchIsWrittenOnlyByAcceptance := by
  unfold Obligations.LatchIsWrittenOnlyByAcceptance
  intro s t hr h hnot
  rcases step_cases h with ⟨hr', -⟩ | ⟨-, -, -, rfl⟩ | ⟨-, ha, o, rest, i, hp, hd, -⟩ | ⟨-, hf, -⟩
  · simp [hr] at hr'
  · exact ⟨rfl, rfl, .inl rfl⟩
  · obtain ⟨d, -, -, hstep⟩ := step_accepts hd
    rw [hstep s rest hr ha hp] at h
    cases h
    exact absurd rfl (hnot ha)
  · obtain ⟨rfl, -⟩ := step_served_congr hf hr hr rfl rfl rfl h
    exact ⟨s.served_d, s.served_len, s.served_idx⟩

/-- Settles O48: reset and acceptance keep the peripheral as it is, and an access reads nothing of it. -/
theorem blockNeverReadsThePeripheral : Obligations.BlockNeverReadsThePeripheral := by
  unfold Obligations.BlockNeverReadsThePeripheral
  intro s t p h
  rcases step_cases h with ⟨hr, rfl⟩ | ⟨hr, ha, hno, rfl⟩ | ⟨hr, ha, o, rest, i, hp, hd, -⟩ | ⟨hr, hf, -⟩
  · exact ⟨p, step_of_reset hr⟩
  · exact ⟨p, step_of_no_request hr ha hno⟩
  · obtain ⟨d, -, -, hstep⟩ := step_accepts hd
    rw [hstep s rest hr ha hp] at h
    cases h
    exact ⟨p, hstep { s with periph := p } rest hr ha hp⟩
  · obtain ⟨rfl, h'⟩ := step_served_congr (s' := { s with periph := p }) hf hr hr rfl rfl rfl h
    obtain ⟨q, hq⟩ := s.served_with_periph p
    exact ⟨q, by rw [h', hq]⟩

/-- Settles O49: in IDLE a step stays, or accepts a latch that comes from the word alone. -/
theorem latchIsNotReadBeforeAcceptance : Obligations.LatchIsNotReadBeforeAcceptance := by
  unfold Obligations.LatchIsNotReadBeforeAcceptance
  intro s t d hr hq h
  have ha : s.seq.accepting = true := by rw [hq]; rfl
  by_cases hreq : s.requestOffered
  · obtain ⟨o, rest, i, hp, hd⟩ := hreq
    obtain ⟨d', -, -, hstep⟩ := step_accepts hd
    rw [hstep s rest hr ha hp] at h
    cases h
    exact .inr ⟨rfl, hstep { s with d := d } rest hr ha hp⟩
  · rw [step_of_no_request hr ha hreq] at h
    cases h
    exact .inl ⟨rfl, step_of_no_request (s := { s with d := d }) hr ha hreq⟩

end Sys2Proof.Machine
end

section
/-! SUPPORT. The invariant of the block (spec 10_state.md R20, R31, R38; 42_executor_sequencer.md R131, R135): reset meets it, and
every step keeps it. What the invariant asks of `SEQ` against the request kind, `LEN` and `IDX` is `Seq.Fits`; a step appends
a legal access, changes inputs the invariant does not speak of, and moves to a sequencer state that fits. -/

namespace Sys2Proof.Machine

open Sys2Proof

/-! ### Sequencer states that fit a request -/

/-- What `State.Inv` asks of a sequencer state other than FAULTED, given the request kind, `LEN` and `IDX` (R20, R121, R130,
R131, R133). -/
structure Seq.Fits (q : Seq) (op : ReqKind) (len idx : Word) : Prop where
  ne_faulted : q ≠ .faulted
  runs : q.runs op = true
  idx_le : idx.toNat ≤ len.toNat
  idx_zero : q.beforeData = true → idx = 0
  idx_lt : q.moving = true → idx.toNat < len.toNat
  idx_eq : q = .wrDrain ∨ q = .dataComplete → idx = len
  len_pos : q.configuring = true → op = .read ∨ op = .write → len ≠ 0

theorem State.Inv.fits {s : State} (hs : s.Inv) (hq : s.seq ≠ .faulted) : s.seq.Fits s.d.op s.len s.idx :=
  ⟨hq, hs.seq_op, hs.idx_le, hs.idx_zero, hs.idx_lt, hs.idx_eq, hs.len_pos⟩

namespace Seq.Fits

variable {q : Seq} {op : ReqKind} {len idx : Word}

/-- The streaming states fit below the length (R131). -/
theorem of_moving (hq : q.moving = true) (hruns : q.runs op = true) (hlt : idx.toNat < len.toNat) :
    q.Fits op len idx where
  ne_faulted := by rintro rfl; cases hq
  runs := hruns
  idx_le := hlt.le
  idx_zero := by cases q <;> simp_all [Seq.moving, Seq.beforeData]
  idx_lt := fun _ => hlt
  idx_eq := by rintro (rfl | rfl) <;> cases hq
  len_pos := by cases q <;> simp_all [Seq.moving, Seq.configuring]

/-- The configuration states fit at index 0, with a length where the request has one (R121). -/
theorem of_configuring (hq : q.configuring = true) (hzero : idx = 0) (hlen : op = .read ∨ op = .write → len ≠ 0) :
    q.Fits op len idx where
  ne_faulted := by rintro rfl; cases hq
  runs := by cases q <;> simp_all [Seq.configuring, Seq.runs]
  idx_le := by simp [hzero]
  idx_zero := fun _ => hzero
  idx_lt := by cases q <;> simp_all [Seq.configuring, Seq.moving]
  idx_eq := by rintro (rfl | rfl) <;> cases hq
  len_pos := fun _ => hlen

/-- WR_DRAIN and DATA_COMPLETE fit when every byte has been moved (R131). -/
theorem of_moved (hq : q = .wrDrain ∨ q = .dataComplete) (hruns : q.runs op = true) (heq : idx = len) :
    q.Fits op len idx := by
  have hle : idx.toNat ≤ len.toNat := by rw [heq]
  rcases hq with rfl | rfl <;> exact ⟨nofun, hruns, hle, nofun, nofun, fun _ => heq, nofun⟩

/-- The states in which no byte is moved or awaited bound the index by the length alone. -/
theorem of_dataless (hq : q = .cmdWait ∨ q = .cmdComplete ∨ q = .mappedActive) (hruns : q.runs op = true)
    (hle : idx.toNat ≤ len.toNat) : q.Fits op len idx := by
  rcases hq with rfl | rfl | rfl <;> exact ⟨nofun, hruns, hle, nofun, nofun, nofun, nofun⟩

/-- BUSYWAIT and LENPROG fit at index 0. -/
theorem of_start (hq : q = .busywait ∨ q = .lenprog) (hruns : q.runs op = true) (hzero : idx = 0) :
    q.Fits op len idx := by
  have hle : idx.toNat ≤ len.toNat := by simp [hzero]
  rcases hq with rfl | rfl <;> exact ⟨nofun, hruns, hle, fun _ => hzero, nofun, nofun, nofun⟩

/-- The dispatch after the busy-wait (R116). -/
theorem of_afterBusy (hzero : idx = 0) : (afterBusy op).Fits op len idx := by
  cases op with
  | read | write => exact of_start (.inr rfl) rfl hzero
  | cmd | map => exact of_configuring rfl hzero nofun

/-- The dispatch after configuring (R121). -/
theorem of_afterConfig (hzero : idx = 0) (hlen : op = .read ∨ op = .write → len ≠ 0) :
    (afterConfig op).Fits op len idx := by
  have hpos (hop : op = .read ∨ op = .write) : idx.toNat < len.toNat := by
    have hne := hlen hop
    rw [Ne, ← BitVec.toNat_inj] at hne
    simp only [hzero, BitVec.ofNat_eq_ofNat, BitVec.toNat_ofNat, Nat.zero_mod] at hne ⊢
    omega
  cases op with
  | cmd => exact of_dataless (.inl rfl) rfl (by simp [hzero])
  | read => exact of_moving rfl rfl (hpos (.inl rfl))
  | write => exact of_moving rfl rfl (hpos (.inr rfl))
  | map => exact of_dataless (.inr (.inr rfl)) rfl (by simp [hzero])

end Seq.Fits

/-! ### What the operations keep -/

namespace State.Inv

variable {s : State}

theorem emit (hs : s.Inv) {e : Event} (he : e.legal = true) : (s.emit e).Inv :=
  { hs with
    trace_legal := fun e' h => by
      rcases List.mem_append.1 h with h | h
      · exact hs.trace_legal e' h
      · rwa [List.mem_singleton.1 h] }

theorem afterSrRead (hs : s.Inv) : s.afterSrRead.Inv := { hs.emit (e := .rd .sr (.word s.srAnswer)) rfl with }

theorem stored (hs : s.Inv) : s.stored.Inv :=
  { hs.emit (e := .rd .dr (.byte s.drAnswer)) rfl with buf_wf := Memory.write_wf hs.buf_wf _ _ }

theorem regWrite (hs : s.Inv) (r : CfgReg) (v : Word) : (s.regWrite r v).Inv :=
  { hs.emit (e := .wr r.reg (.word v)) (by cases r <;> rfl) with }

theorem regWriteDr (hs : s.Inv) (b : Byte) : (s.regWriteDr b).Inv := { hs.emit (e := .wr .dr (.byte b)) rfl with }

theorem takeOffer (hs : s.Inv) (i : Instr) (o : Offer) (rest : List Offer) : (s.takeOffer i o rest).Inv :=
  { hs with buf_wf := offeredBuf_wf hs.buf_wf }

/-- Moving between states other than FAULTED, to one that fits. -/
theorem moveTo (hs : s.Inv) (hold : s.seq ≠ .faulted) {q : Seq} {n : Word} (hq : q.Fits s.d.op s.len n) :
    ({ s with idx := n, seq := q } : State).Inv :=
  { hs with
    idx_le := hq.idx_le
    seq_op := hq.runs
    idx_zero := hq.idx_zero
    idx_lt := hq.idx_lt
    idx_eq := hq.idx_eq
    len_pos := hq.len_pos
    fault_iff := hs.fault_iff.trans (iff_of_false hold hq.ne_faulted)
    fault_len := fun h => absurd h hq.ne_faulted }

/-- Where the poll of an invariant state goes when it ends fits (R116, R122, R123, R125, R127). -/
theorem pollNext_fits (hs : s.Inv) (hp : s.seq.polling = true) : (pollNext s).Fits s.d.op s.len s.idx := by
  have hop := hs.seq_op
  have hzero := hs.idx_zero
  have hlt := hs.idx_lt
  unfold pollNext
  cases hq : s.seq <;> rw [hq] at hp hop hzero hlt
  case busywait => exact .of_afterBusy (hzero rfl)
  case cmdWait => exact .of_dataless (.inr (.inl rfl)) hop hs.idx_le
  case rdPoll | wrPoll => exact .of_moving rfl hop (hlt rfl)
  case wrDrain => exact .of_moved (.inr rfl) (by simp_all [Seq.runs]) (hs.idx_eq (.inl hq))
  all_goals cases hp

theorem poll (hs : s.Inv) (hp : s.seq.polling = true) : (s.poll (pollNext s)).Inv := by
  have hold : s.seq ≠ .faulted := fun hq => by simp [hq, Seq.polling] at hp
  refine hs.afterSrRead.moveTo hold ?_
  split
  · exact hs.pollNext_fits hp
  · exact hs.fits hold

theorem configWrite (hs : s.Inv) (hold : s.seq ≠ .faulted) (r : CfgReg) (v : Word) {next : Seq}
    (hnext : next.Fits s.d.op s.len s.idx) : (s.configWrite r v next).Inv :=
  (hs.regWrite r v).moveTo hold hnext

/-- The byte step, below the length: `more` is a streaming state, `done` one in which every byte has been moved (R124, R126). -/
theorem advance (hs : s.Inv) (hold : s.seq ≠ .faulted) (hlt : s.idx.toNat < s.len.toNat) {more done : Seq}
    (hmore : more.moving = true ∧ more.runs s.d.op = true)
    (hdone : (done = .wrDrain ∨ done = .dataComplete) ∧ done.runs s.d.op = true) : (s.advance more done).Inv := by
  refine hs.moveTo hold ?_
  split
  · next heq => exact .of_moved hdone.1 hdone.2 heq
  · next hne =>
    refine .of_moving hmore.1 hmore.2 ?_
    rw [State.idx_succ_eq_len hlt] at hne
    rw [State.idx_succ_toNat hlt]
    omega

theorem accept (hs : s.Inv) (hold : s.seq ≠ .faulted) {d : Latch} {n : Word} (hd : d.Inv)
    (hn : d.op = .cmd ∨ d.op = .map → n = 0) : (s.accept d n).Inv :=
  have hq : Seq.busywait.Fits d.op n 0 := .of_start (.inl rfl) rfl rfl
  { hs with
    latch := hd
    no_len := hn
    idx_le := hq.idx_le
    seq_op := hq.runs
    idx_zero := hq.idx_zero
    idx_lt := hq.idx_lt
    idx_eq := hq.idx_eq
    len_pos := hq.len_pos
    fault_iff := hs.fault_iff.trans (iff_of_false hold hq.ne_faulted)
    fault_len := nofun }

/-- The fault entry of LENPROG at length zero (R117, R155). -/
theorem takeFault (hs : s.Inv) (hq : s.seq = .lenprog) (hlen : s.len = 0) : (s.takeFault causeZeroLength).Inv :=
  { hs with
    seq_op := by simpa [hq, Seq.runs] using hs.seq_op
    idx_zero := fun _ => hs.idx_zero (by rw [hq]; rfl)
    idx_lt := nofun
    idx_eq := nofun
    len_pos := nofun
    fault_iff := iff_of_true rfl rfl
    cause_eq := rfl
    fault_len := fun _ => hlen }

/-- Every access keeps the invariant. -/
theorem served (hs : s.Inv) : s.served.Inv := by
  have hop := hs.seq_op
  have hzero := hs.idx_zero
  have hlt := hs.idx_lt
  have hpos := hs.len_pos
  unfold State.served
  cases hq : s.seq <;> rw [hq] at hop hzero hlt hpos
  case idle | cmdComplete | dataComplete | mappedActive | faulted => exact hs
  case busywait | cmdWait | rdPoll | wrPoll | wrDrain => exact hs.poll (by rw [hq]; rfl)
  all_goals have hold : s.seq ≠ .faulted := by simp [hq]
  case lenprog =>
    dsimp only
    split
    · next hlen => exact hs.takeFault hq hlen
    · next hlen => exact hs.configWrite hold _ _ (.of_configuring rfl (hzero rfl) fun _ => hlen)
  case cfgAbr | cfgCcr => exact hs.configWrite hold _ _ (.of_configuring rfl (hzero rfl) (hpos rfl))
  case cfgAr => exact hs.configWrite hold _ _ (.of_afterConfig (hzero rfl) (hpos rfl))
  case rdPop => exact hs.stored.advance hold (hlt rfl) ⟨rfl, hop⟩ ⟨.inr rfl, by simp_all [Seq.runs]⟩
  case wrPush => exact (hs.regWriteDr _).advance hold (hlt rfl) ⟨rfl, hop⟩ ⟨.inl rfl, hop⟩

end State.Inv

/-- Reset leaves the invariant wherever the two things it keeps and the invariant speaks of meet it: BUF and the parameters. -/
theorem State.applyReset_inv {s : State} (hbuf : Memory.wf s.buf = true) (haddr : s.params.addr.wf) :
    s.applyReset.Inv where
  latch := Latch.reset_inv
  no_len := fun _ => rfl
  idx_le := le_rfl
  seq_op := rfl
  idx_zero := nofun
  idx_lt := nofun
  idx_eq := nofun
  len_pos := nofun
  fault_iff := iff_of_false nofun nofun
  cause_eq := rfl
  fault_len := nofun
  buf_wf := hbuf
  trace_legal := nofun
  addr_wf := haddr

/-! ### The invariant along the steps -/

/-- Settles O42: the four kinds of steps are reset, no step, acceptance and an access served. -/
theorem stepKeepsTheInvariant : Obligations.StepKeepsTheInvariant := by
  unfold Obligations.StepKeepsTheInvariant
  intro s t hs h
  rcases step_cases h with ⟨-, rfl⟩ | ⟨-, -, -, rfl⟩ | ⟨hr, ha, o, rest, i, hp, hd, -⟩ | ⟨hr, hf, -⟩
  · exact State.applyReset_inv hs.buf_wf hs.addr_wf
  · exact hs
  · obtain ⟨d, hlatch, hlen, hstep⟩ := step_accepts hd
    rw [hstep s rest hr ha hp] at h
    cases h
    exact (hs.takeOffer i o rest).accept (ne_faulted_of_accepting ha) hlatch hlen
  · obtain ⟨rfl, -⟩ := step_served_congr hf hr hr rfl rfl rfl h
    exact hs.served

/-- Settles O43: the reset state is what the reset input leaves of it. -/
theorem resetMeetsTheInvariant : Obligations.ResetMeetsTheInvariant := by
  unfold Obligations.ResetMeetsTheInvariant
  exact State.applyReset_inv (s := State.reset) rfl (by decide)

/-- Settles O39: each field is read off the definition of the reset state. -/
theorem resetStateHoldsTheSpecsValues : Obligations.ResetStateHoldsTheSpecsValues := by
  unfold Obligations.ResetStateHoldsTheSpecsValues
  exact ⟨rfl, rfl, rfl, rfl, rfl, rfl⟩

/-- Settles O40: `FAULT` set means FAULTED (R31), where only a reset answers a next state. -/
theorem faultIsClearedOnlyByReset : Obligations.FaultIsClearedOnlyByReset := by
  unfold Obligations.FaultIsClearedOnlyByReset
  intro s t hs hfault h
  have hq : s.seq = .faulted := hs.fault_iff.1 hfault
  rcases step_cases h with ⟨hr, rfl⟩ | ⟨-, ha, -⟩ | ⟨-, ha, -⟩ | ⟨-, hf, -⟩
  · exact ⟨hr, rfl⟩
  · exact absurd hq (ne_faulted_of_accepting ha)
  · exact absurd hq (ne_faulted_of_accepting ha)
  · exact absurd hq (ne_faulted_of_inFlight hf)

end Sys2Proof.Machine
end

section
/-! SUPPORT. The compiler and the absent phases (spec 41_register_compiler.md R95, R96, R104, R105): each field and register
value that depends on a phase's payload is 0 when the phase is absent. -/

namespace Sys2Proof.Machine

open Sys2Proof

theorem instructionField_of_absent {d : Latch} (h : d.ilw = .none) : instructionField d = 0 := by
  simp [instructionField, h, LineWidth.present]

theorem adsizeField_of_absent {d : Latch} (h : d.adlw = .none) : adsizeField d = 0 := by
  simp [adsizeField, h, LineWidth.present]

theorem absizeField_of_absent {d : Latch} (h : d.ablw = .none) : absizeField d = 0 := by
  simp [absizeField, h, LineWidth.present]

theorem ar_of_absent {d : Latch} (h : d.adlw = .none) : ar d = 0 := by simp [ar, h, LineWidth.present]

theorem abr_of_absent {d : Latch} (h : d.ablw = .none) : abr d = 0 := by simp [abr, h, LineWidth.present]

/-- CCR reads the instruction byte, the address width and the alternate-bytes width through their fields alone. -/
theorem ccr_congr_payload (l : Config.CcrLayout) (m : FuncMode) {d e : Latch}
    (hshape : e = { d with instr := e.instr, adw := e.adw, addr := e.addr, abw := e.abw, alt := e.alt })
    (hinstr : instructionField e = instructionField d) (hadsize : adsizeField e = adsizeField d)
    (habsize : absizeField e = absizeField d) : ccr l e m = ccr l d m := by
  unfold ccr
  rw [hinstr, hadsize, habsize, hshape]

/-- Settles O14: the payload of an absent phase enters only fields and values that are then 0. -/
theorem absentPhaseIsNotRead : Obligations.AbsentPhaseIsNotRead := by
  unfold Obligations.AbsentPhaseIsNotRead
  refine fun l d m b w v x y => ⟨fun h => ?instruction, fun h => ?address, fun h => ?alternate⟩
  case instruction =>
    have hfield : instructionField { d with instr := b } = instructionField d :=
      (instructionField_of_absent (d := { d with instr := b }) h).trans (instructionField_of_absent h).symm
    exact ⟨ccr_congr_payload l m rfl hfield rfl rfl, rfl, rfl⟩
  case address =>
    have hfield : adsizeField { d with adw := w, addr := x } = adsizeField d :=
      (adsizeField_of_absent (d := { d with adw := w, addr := x }) h).trans (adsizeField_of_absent h).symm
    refine ⟨ccr_congr_payload l m rfl rfl hfield rfl, ?_, rfl, ar_of_absent h⟩
    exact (ar_of_absent (d := { d with adw := w, addr := x }) h).trans (ar_of_absent h).symm
  case alternate =>
    have hfield : absizeField { d with abw := v, alt := y } = absizeField d :=
      (absizeField_of_absent (d := { d with abw := v, alt := y }) h).trans (absizeField_of_absent h).symm
    refine ⟨ccr_congr_payload l m rfl rfl rfl hfield, rfl, ?_, abr_of_absent h⟩
    exact (abr_of_absent (d := { d with abw := v, alt := y }) h).trans (abr_of_absent h).symm

end Sys2Proof.Machine
end

section
/-! SUPPORT. What writes the payload buffer (spec 10_state.md R37; 20_memory.md R53, R58, R61): of the accesses only the byte read
of RD_POP, at IDX, and of the acceptances only that of a READ or a WRITE whose offer names bytes. -/

namespace Sys2Proof.Machine

open Sys2Proof

/-! ### An access in flight -/

theorem State.served_buf (s : State) :
    s.served.buf = if s.seq = .rdPop then Memory.write s.buf s.idx.toNat s.drAnswer else s.buf := by
  cases hq : s.seq <;> simp [State.served, hq, apply_ite State.buf]

/-- Outside the accepting states a step keeps BUF, or is the byte read of RD_POP (R53, R58). -/
theorem step_buf_of_not_accepting {s t : State} (ha : s.seq.accepting = false) (h : step s = .next t) :
    t.buf = s.buf ∨ s.seq = .rdPop ∧ t.buf = Memory.write s.buf s.idx.toNat s.drAnswer := by
  rcases step_cases h with ⟨-, rfl⟩ | ⟨-, ha', -⟩ | ⟨-, ha', -⟩ | ⟨hr, hf, -⟩
  · exact .inl rfl
  · exact absurd ha' (by simp [ha])
  · exact absurd ha' (by simp [ha])
  · obtain ⟨rfl, -⟩ := step_served_congr hf hr hr rfl rfl rfl h
    rw [State.served_buf]
    split
    · next hq => exact .inr ⟨hq, rfl⟩
    · exact .inl rfl

/-! ### The acceptance of a request -/

/-- A buffer that an offer changes is the one named by its bytes, with a request that has a buffer (R37, R61). -/
theorem offeredBuf_of_ne {i : Instr} {o : Offer} {m : Memory} (h : offeredBuf i o m ≠ m) :
    hasBuffer i = true ∧ ∃ bs, o.buf = some bs ∧ offeredBuf i o m = Memory.ofBytes bs := by
  cases ho : o.buf with
  | none => exact absurd (by simp only [offeredBuf, ho]) h
  | some bs =>
    by_cases hb : hasBuffer i = true
    · exact ⟨hb, bs, rfl, by simp only [offeredBuf, ho, if_pos hb]⟩
    · exact absurd (by simp only [offeredBuf, ho, if_neg hb]) h

/-- The requests that have a buffer are READ and WRITE (R61): the latch of their acceptance says which. -/
theorem exec_op_of_hasBuffer {s t : State} {i : Instr} (ha : s.seq.accepting = true) (hb : hasBuffer i = true)
    (h : exec i s = .next t) : t.d.op = .read ∨ t.d.op = .write := by
  cases i with
  | read io len =>
    simp only [exec, execRead, State.offered_accepting ha] at h
    cases h
    exact .inl rfl
  | write io len =>
    simp only [exec, execWrite, State.offered_accepting ha] at h
    cases h
    exact .inr rfl
  | cmd | map | rdSr | wrDlr | wrAbr | wrCcr | wrAr | rdDr8 | wrDr8 => cases hb

/-- In an accepting state a step that changes BUF is the acceptance of a READ or a WRITE whose offer names the new bytes (R114). -/
theorem step_buf_of_accepting {s t : State} (ha : s.seq.accepting = true) (h : step s = .next t) (hne : t.buf ≠ s.buf) :
    t.seq = .busywait ∧ (t.d.op = .read ∨ t.d.op = .write) ∧
      ∃ o rest bs, s.port = o :: rest ∧ o.buf = some bs ∧ t.buf = Memory.ofBytes bs := by
  rcases step_cases h with ⟨-, rfl⟩ | ⟨-, -, -, rfl⟩ | ⟨hr, -, o, rest, i, hp, hd, he⟩ | ⟨-, hf, -⟩
  · exact absurd rfl hne
  · exact absurd rfl hne
  · obtain ⟨d, -, -, hstep⟩ := step_accepts hd
    rw [hstep s rest hr ha hp] at h
    cases h
    obtain ⟨hb, bs, hbs, hbuf⟩ := offeredBuf_of_ne hne
    exact ⟨rfl, exec_op_of_hasBuffer (s := s.takeOffer i o rest) ha hb he, o, rest, bs, hp, hbs, hbuf⟩
  · exact absurd ha (by simp [not_accepting_of_inFlight hf])

/-! ### The statement -/

/-- Settles O47: the two ways in which a step writes BUF, and what `Memory.write` and `Memory.ofBytes` read as. -/
theorem bufferIsWrittenOnlyByReadPop : Obligations.BufferIsWrittenOnlyByReadPop := by
  unfold Obligations.BufferIsWrittenOnlyByReadPop
  refine fun s t hwf h => ⟨fun ha => ?inFlight, fun ha hne => ?accepting⟩
  case inFlight =>
    rcases step_buf_of_not_accepting ha h with hbuf | ⟨hq, hbuf⟩
    · exact ⟨fun _ => hbuf, fun a _ => by rw [hbuf]⟩
    · exact ⟨absurd hq, fun a hidx => by rw [hbuf, Memory.read_write hwf, if_neg hidx]⟩
  case accepting =>
    obtain ⟨hseq, hop, o, rest, bs, hp, hbs, hbuf⟩ := step_buf_of_accepting ha h hne
    exact ⟨hseq, hop, o, rest, bs, hp, hbs, fun k b hk => by rw [hbuf, Memory.read_ofBytes, hk, Option.getD_some]⟩

end Sys2Proof.Machine
end

section
/-! SUPPORT. Words put together of disjoint fields (spec 00_scope.md R7; 30_encoding.md R66; 41_register_compiler.md R103): each
field reads back, and fields that cover a word determine it. -/

namespace Sys2Proof.Machine

open Sys2Proof

/-- A value with the place of its least significant bit. -/
structure Slot where
  pos : Nat
  width : Nat
  value : BitVec width

/-- The bits of a slot do not meet the `n` bits from `p` on. -/
def Slot.Avoids (s : Slot) (p n : Nat) : Prop := s.pos + s.width ≤ p ∨ p + n ≤ s.pos

/-- The OR of the placed values, the shape of `encodeHeader` and of `ccr`. -/
def packed : List Slot → Word
  | [] => 0
  | s :: l => place s.value s.pos ||| packed l

theorem field_packed_of_avoids {l : List Slot} {p n : Nat} (h : ∀ s ∈ l, s.Avoids p n) : field (packed l) p n = 0 := by
  induction l with
  | nil => simp [packed, field]
  | cons s l ih =>
    obtain ⟨hs, hl⟩ := List.forall_mem_cons.1 h
    simp [packed, field_place_disjoint _ _ _ _ hs, ih hl]

/-- A value placed beside disjoint ones reads back at its place. -/
theorem field_packed {l : List Slot} (h : l.Pairwise fun s t => s.Avoids t.pos t.width) {s : Slot} (hs : s ∈ l)
    (hfit : s.pos + s.width ≤ 32) : field (packed l) s.pos s.width = s.value := by
  induction l with
  | nil => cases hs
  | cons t l ih =>
    obtain ⟨hhead, htail⟩ := List.pairwise_cons.1 h
    rcases List.mem_cons.1 hs with rfl | hs
    · have hrest : field (packed l) s.pos s.width = 0 := field_packed_of_avoids fun t ht => (hhead t ht).symm
      simp [packed, field_place_same _ _ hfit, hrest]
    · simp [packed, field_place_disjoint _ _ _ _ (hhead s hs), ih htail hs]

/-- Two words that agree on fields that cover all 32 bits are equal. -/
theorem eq_of_fields {v w : Word} (slots : List (Nat × Nat)) (hcover : ∀ i < 32, ∃ f ∈ slots, f.1 ≤ i ∧ i < f.1 + f.2)
    (h : ∀ f ∈ slots, field v f.1 f.2 = field w f.1 f.2) : v = w := by
  ext i hi
  obtain ⟨f, hf, hle, hlt⟩ := hcover i hi
  have hbit := congrArg (·.getLsbD (i - f.1)) (h f hf)
  simpa [field, show i - f.1 < f.2 by omega, show f.1 + (i - f.1) = i by omega, hi] using hbit

/-- A one-bit field holds its bit. -/
theorem field_one (w : Word) (p : Nat) : field w p 1 = flagBit (bit w p) := by
  ext i hi
  obtain rfl : i = 0 := by omega
  simp [field, bit, flagBit]

/-! ### The request header (R66) -/

/-- What stands in the fields of a request's header; its reserved bits are `Laws.HeaderForm.header_reserved`. -/
theorem encodeHeader_fields (op : ReqKind) (c : Command) (dcyc : BitVec 5) (dlw : LineWidth) (sioo : Bool) :
    let w := encodeHeader op c dcyc dlw sioo
    field w 0 2 = opCode op ∧ field w 2 2 = ddrCode c.ddr ∧ field w 4 2 = lineCode c.ilw ∧
      field w 6 2 = lineCode c.adlw ∧ field w 8 2 = lineCode c.ablw ∧ field w 10 2 = lineCode dlw ∧
      field w 12 2 = widthField c.addr.width ∧ field w 14 2 = widthField c.alt.width ∧ field w 16 5 = dcyc ∧
      field w 21 1 = flagBit sioo ∧ field w 24 8 = c.instr := by
  simp [encodeHeader, field_place_same, field_place_disjoint]

/-! ### The register CCR (R103) -/

/-- The fields of CCR with their values, in the order of `CcrLayout.slots`. -/
def ccrSlots (l : Config.CcrLayout) (d : Latch) (m : FuncMode) : List Slot :=
  [⟨l.instruction, 8, instructionField d⟩, ⟨l.imode, 2, modeCode d.ilw⟩, ⟨l.admode, 2, modeCode d.adlw⟩,
   ⟨l.adsize, 2, adsizeField d⟩, ⟨l.abmode, 2, modeCode d.ablw⟩, ⟨l.absize, 2, absizeField d⟩, ⟨l.dcyc, 5, d.dcyc⟩,
   ⟨l.dmode, 2, modeCode d.dlw⟩, ⟨l.fmode, 2, fmodeCode m⟩, ⟨l.sioo, 1, flagBit d.sioo⟩,
   ⟨l.dhhc, 1, flagBit (ddrHoldBit d.ddr)⟩, ⟨l.ddrm, 1, flagBit (ddrEnableBit d.ddr)⟩]

theorem map_ccrSlots (l : Config.CcrLayout) (d : Latch) (m : FuncMode) :
    (ccrSlots l d m).map (fun s => (s.pos, s.width)) = l.slots := rfl

theorem ccr_eq_packed (l : Config.CcrLayout) (d : Latch) (m : FuncMode) : ccr l d m = packed (ccrSlots l d m) := by
  simp [ccr, ccrSlots, packed, BitVec.or_assoc]

/-- Under a layout of disjoint fields every field of CCR reads back (R103). -/
theorem field_ccr {l : Config.CcrLayout} (h : l.disjoint) {d : Latch} {m : FuncMode} {s : Slot}
    (hs : s ∈ ccrSlots l d m) : field (ccr l d m) s.pos s.width = s.value := by
  obtain ⟨hfit, hdisjoint⟩ := h
  rw [← map_ccrSlots l d m] at hfit hdisjoint
  rw [ccr_eq_packed]
  exact field_packed (List.pairwise_map.1 hdisjoint) hs (hfit _ (List.mem_map_of_mem hs))

theorem fmodeCode_fm_ne_poll (op : ReqKind) : fmodeCode (fm op) ≠ fmodeCode .poll := by cases op <;> decide

/-- Settles O15: the data-direction field reads back the code of a functional mode that is not Poll. -/
theorem noRequestWritesThePollCode : Obligations.NoRequestWritesThePollCode := by
  unfold Obligations.NoRequestWritesThePollCode
  intro l d h hpoll
  have hfield : field (ccr l d (fm d.op)) l.fmode 2 = fmodeCode (fm d.op) :=
    field_ccr h (s := ⟨l.fmode, 2, fmodeCode (fm d.op)⟩) (by simp [ccrSlots])
  exact fmodeCode_fm_ne_poll d.op (hfield.symm.trans hpoll)

end Sys2Proof.Machine
end

section
/-! SUPPORT. The codes of the header against the values they stand for (spec 30_encoding.md R67 to R69), the request that a word
is (R72, R76), and the decoder against the encoder. -/

namespace Sys2Proof

open Sys2Proof.Machine

/-! ### Codes -/

theorem opOfCode_eq_iff {b : BitVec 2} {op : ReqKind} : opOfCode b = op ↔ b = opCode op :=
  ⟨fun h => by rw [← h, opCode_opOfCode], fun h => by rw [h, opOfCode_opCode]⟩

theorem lineOfCode_eq_iff {b : BitVec 2} {lw : LineWidth} : lineOfCode b = lw ↔ b = lineCode lw :=
  ⟨fun h => by rw [← h, lineCode_lineOfCode], fun h => by rw [h, lineOfCode_lineCode]⟩

theorem ddrCode_of_ddrOfCode {b : BitVec 2} {ddr : DdrMode} (h : ddrOfCode b = some ddr) : ddrCode ddr = b := by
  revert b ddr
  decide

/-- The code 11 alone is reserved (R69, R74). -/
theorem ddrOfCode_eq_none_iff {b : BitVec 2} : ddrOfCode b = none ↔ b = 3 := by
  revert b
  decide

theorem bytes_widthOfField (b : BitVec 2) : (widthOfField b).bytes = b.toNat + 1 := by
  revert b
  decide

theorem flagBit_inj {a b : Bool} : flagBit a = flagBit b ↔ a = b := by cases a <;> cases b <;> decide

/-! ### The request that a word is -/

section
variable {w : ReqWord} {ddr : DdrMode} (hres : field w.w0 22 2 = 0) (hddr : ddrOfCode (field w.w0 2 2) = some ddr)
include hres hddr

theorem decodeRequest_of_cmd (hop : opOfCode (field w.w0 0 2) = .cmd) (hdlw : lineOfCode (field w.w0 10 2) = .none)
    (hdcyc : field w.w0 16 5 = 0) (hsioo : bit w.w0 21 = false) (hlen : w.w3 = 0) :
    decodeRequest w = .ok (.cmd (decodeCommand w ddr)) := by
  simp [decodeRequest, decodeCmd, hres, hddr, hop, hdlw, hdcyc, hsioo, hlen]

theorem decodeRequest_of_read (hop : opOfCode (field w.w0 0 2) = .read) :
    decodeRequest w = .ok (.read (decodeIoCommand w ddr) w.w3) := by
  simp [decodeRequest, hres, hddr, hop]

theorem decodeRequest_of_write (hop : opOfCode (field w.w0 0 2) = .write) :
    decodeRequest w = .ok (.write (decodeIoCommand w ddr) w.w3) := by
  simp [decodeRequest, hres, hddr, hop]

theorem decodeRequest_of_map (hop : opOfCode (field w.w0 0 2) = .map) (hlen : w.w3 = 0) :
    decodeRequest w = .ok (.map (decodeIoCommand w ddr)) := by
  simp [decodeRequest, hres, hddr, hop, hlen]

end

/-- R72 in the decoder's terms: the tests that stand between a word and its request. -/
theorem exists_decodeRequest_iff (w : ReqWord) : (∃ i, decodeRequest w = .ok i) ↔
    field w.w0 22 2 = 0 ∧ (∃ ddr, ddrOfCode (field w.w0 2 2) = some ddr) ∧
      (opOfCode (field w.w0 0 2) = .cmd →
        lineOfCode (field w.w0 10 2) = .none ∧ field w.w0 16 5 = 0 ∧ bit w.w0 21 = false ∧ w.w3 = 0) ∧
      (opOfCode (field w.w0 0 2) = .map → w.w3 = 0) := by
  constructor
  · rintro ⟨i, h⟩
    obtain ⟨hres, ddr, hddr, ⟨hop, hdlw, hdcyc, hsioo, hlen, -⟩ | ⟨hop, -⟩ | ⟨hop, -⟩ | ⟨hop, hlen, -⟩⟩ :=
      decodeRequest_ok h
    all_goals refine ⟨hres, ⟨ddr, hddr⟩, ?_⟩
    · exact ⟨fun _ => ⟨hdlw, hdcyc, hsioo, hlen⟩, fun _ => hlen⟩
    · simp [hop]
    · simp [hop]
    · simp [hop, hlen]
  · rintro ⟨hres, ⟨ddr, hddr⟩, hcmd, hmap⟩
    cases hop : opOfCode (field w.w0 0 2) with
    | cmd =>
      obtain ⟨hdlw, hdcyc, hsioo, hlen⟩ := hcmd hop
      exact ⟨_, decodeRequest_of_cmd hres hddr hop hdlw hdcyc hsioo hlen⟩
    | read => exact ⟨_, decodeRequest_of_read hres hddr hop⟩
    | write => exact ⟨_, decodeRequest_of_write hres hddr hop⟩
    | map => exact ⟨_, decodeRequest_of_map hres hddr hop (hmap hop)⟩

/-! ### Decoding after encoding -/

/-- The words of a well-formed IoCommand give its fields back, whatever the request kind and the length. -/
theorem decodeIoCommand_encodeWords (op : ReqKind) {io : IoCommand} (h : io.toCommand.wf = true) (len : Word) :
    decodeIoCommand (encodeWords op io len) io.ddr = io := by
  obtain ⟨-, -, hilw, hadlw, hablw, hdlw, hadw, habw, hdcyc, hsioo, hinstr⟩ :=
    encodeHeader_fields op io.toCommand io.dcyc io.dlw io.sioo
  rw [field_one, flagBit_inj] at hsioo
  obtain ⟨haddr, halt⟩ := Bool.and_eq_true_iff.1 h
  simp only [decodeIoCommand, decodeCommand, encodeWords, hilw, hadlw, hablw, hdlw, hadw, habw, hdcyc, hsioo, hinstr,
    lineOfCode_lineCode, widthOfField_widthField, maskedArgument_self haddr, maskedArgument_self halt]

/-- A CMD is an IoCommand without dummy cycles, data width and send-once flag (R92). -/
theorem decodeCommand_encodeWords (op : ReqKind) {c : Command} (h : c.wf = true) (len : Word) :
    decodeCommand (encodeWords op { c with } len) c.ddr = c :=
  congrArg IoCommand.toCommand (decodeIoCommand_encodeWords op (io := { c with }) h len)

/-- The encoder's words meet the shape constraints on their DDR code and reserved bits (R72). -/
theorem encodeWords_shape (op : ReqKind) (io : IoCommand) (len : Word) :
    field (encodeWords op io len).w0 22 2 = 0 ∧ ddrOfCode (field (encodeWords op io len).w0 2 2) = some io.ddr ∧
      opOfCode (field (encodeWords op io len).w0 0 2) = op := by
  obtain ⟨hop, hddr, -⟩ := encodeHeader_fields op io.toCommand io.dcyc io.dlw io.sioo
  simp only [encodeWords, hop, hddr, Laws.HeaderForm.header_reserved, ddrOfCode_ddrCode, opOfCode_opCode, and_self]

theorem decodeRequest_encodeWords_cmd {c : Command} (h : c.wf = true) :
    decodeRequest (encodeWords .cmd { c with } 0) = .ok (.cmd c) := by
  obtain ⟨hres, hddr, hop⟩ := encodeWords_shape .cmd { c with } 0
  obtain ⟨-, -, -, -, -, hdlw, -, -, hdcyc, hsioo, -⟩ := encodeHeader_fields .cmd c 0 .none false
  rw [field_one, flagBit_inj] at hsioo
  rw [decodeRequest_of_cmd hres hddr hop (lineOfCode_eq_iff.2 hdlw) hdcyc hsioo rfl, decodeCommand_encodeWords _ h]

/-- Settles O1: field by field, the header's codes and the masked argument words give the instruction back. -/
theorem decodeOfEncodeIsTheInstruction : Obligations.DecodeOfEncodeIsTheInstruction := by
  unfold Obligations.DecodeOfEncodeIsTheInstruction
  intro i h
  cases i with
  | cmd c => exact decodeRequest_encodeWords_cmd h
  | read io len =>
    obtain ⟨hres, hddr, hop⟩ := encodeWords_shape .read io len
    rw [encode, decode, decodeRequest_of_read hres hddr hop, decodeIoCommand_encodeWords _ h]
    rfl
  | write io len =>
    obtain ⟨hres, hddr, hop⟩ := encodeWords_shape .write io len
    rw [encode, decode, decodeRequest_of_write hres hddr hop, decodeIoCommand_encodeWords _ h]
    rfl
  | map io =>
    obtain ⟨hres, hddr, hop⟩ := encodeWords_shape .map io 0
    rw [encode, decode, decodeRequest_of_map hres hddr hop rfl, decodeIoCommand_encodeWords _ h]
  | rdSr | wrDlr | wrAbr | wrCcr | wrAr | rdDr8 | wrDr8 => rfl

/-! ### What decodes -/

/-- Each access decodes to the kind that is encoded so, or to none (R78, R135). -/
theorem encode_of_decodeAccess {a : Access} {i : Instr} (h : decodeAccess a = .ok i) : encode i = .access a := by
  unfold decodeAccess at h
  split_ifs at h <;> cases h <;> subst a <;> rfl

theorem Instr.wf_of_encode_access {i : Instr} {a : Access} (h : encode i = .access a) : i.wf = true := by
  cases i with
  | cmd | read | write | map => cases h
  | rdSr | wrDlr | wrAbr | wrCcr | wrAr | rdDr8 | wrDr8 => rfl

/-- Settles O2: a request's arguments are masked to their widths, and an access kind has none. -/
theorem decodedInstructionIsWellFormed : Obligations.DecodedInstructionIsWellFormed := by
  unfold Obligations.DecodedInstructionIsWellFormed
  intro e i h
  cases e with
  | access a => exact Instr.wf_of_encode_access (encode_of_decodeAccess h)
  | request w =>
    obtain ⟨-, ddr, -, ⟨-, -, -, -, -, rfl⟩ | ⟨-, rfl⟩ | ⟨-, rfl⟩ | ⟨-, -, rfl⟩⟩ := decodeRequest_ok h
    all_goals exact decodeCommand_wf w ddr

/-- Settles O6: the worked values are evaluated, and a decoded access is the one its kind encodes to. -/
theorem workedEncodingsDecode : Obligations.WorkedEncodingsDecode := by
  unfold Obligations.WorkedEncodingsDecode
  refine ⟨?_, ?_, ?_, ?_, ?_, ?_, ?_, ?_, ?_, ?_, ?_, ?_, ?_, fun a i h => encode_of_decodeAccess h, ?_⟩ <;> decide

/-- Settles O3: each constraint of R72 is one test of the decoder, read off the code of its field. -/
theorem requestWordIsAcceptedExactlyWhenWellShaped : Obligations.RequestWordIsAcceptedExactlyWhenWellShaped := by
  unfold Obligations.RequestWordIsAcceptedExactlyWhenWellShaped
  intro w
  have hddr : (∃ ddr, ddrOfCode (field w.w0 2 2) = some ddr) ↔ field w.w0 2 2 ≠ 3 := by
    rw [← Option.ne_none_iff_exists', ne_eq, ddrOfCode_eq_none_iff]
  have hsioo : bit w.w0 21 = false ↔ field w.w0 21 1 = 0 := by
    rw [field_one]
    exact flagBit_inj.symm
  rw [exists_decodeRequest_iff, hddr, hsioo, opOfCode_eq_iff, opOfCode_eq_iff, lineOfCode_eq_iff]
  rfl

/-! ### Encoding after decoding -/

/-- What decodes is encoded as the IoCommand of its word: a CMD leaves out fields that are zero in the word (R72). -/
theorem encode_of_decodeRequest {w : ReqWord} {i : Instr} (h : decodeRequest w = .ok i) :
    field w.w0 22 2 = 0 ∧ ∃ ddr, ddrOfCode (field w.w0 2 2) = some ddr ∧
      encode i = .request (encodeWords (opOfCode (field w.w0 0 2)) (decodeIoCommand w ddr) w.w3) := by
  obtain ⟨hres, ddr, hddr, hkind⟩ := decodeRequest_ok h
  refine ⟨hres, ddr, hddr, ?_⟩
  rcases hkind with ⟨hop, hdlw, hdcyc, hsioo, hlen, rfl⟩ | ⟨hop, rfl⟩ | ⟨hop, rfl⟩ | ⟨hop, hlen, rfl⟩
  · simp only [encode, decodeIoCommand, hop, hdlw, hdcyc, hsioo, hlen]
  · rw [hop, encode]
  · rw [hop, encode]
  · rw [hop, hlen, encode]

/-- The header of a word is the one that the encoder makes of its fields. -/
theorem encodeHeader_decodeIoCommand {w : ReqWord} {ddr : DdrMode} (hres : field w.w0 22 2 = 0)
    (hddr : ddrOfCode (field w.w0 2 2) = some ddr) (len : Word) :
    (encodeWords (opOfCode (field w.w0 0 2)) (decodeIoCommand w ddr) len).w0 = w.w0 := by
  obtain ⟨hop, hddr', hilw, hadlw, hablw, hdlw, hadw, habw, hdcyc, hsioo, hinstr⟩ :=
    encodeHeader_fields (opOfCode (field w.w0 0 2)) (decodeCommand w ddr) (field w.w0 16 5)
      (lineOfCode (field w.w0 10 2)) (bit w.w0 21)
  refine eq_of_fields
    [(0, 2), (2, 2), (4, 2), (6, 2), (8, 2), (10, 2), (12, 2), (14, 2), (16, 5), (21, 1), (22, 2), (24, 8)] (by decide) ?_
  simp only [List.forall_mem_cons, List.not_mem_nil, false_imp_iff, implies_true, and_true]
  refine ⟨hop.trans (opCode_opOfCode _), hddr'.trans (ddrCode_of_ddrOfCode hddr), hilw.trans (lineCode_lineOfCode _),
    hadlw.trans (lineCode_lineOfCode _), hablw.trans (lineCode_lineOfCode _), hdlw.trans (lineCode_lineOfCode _),
    hadw.trans (widthField_widthOfField _), habw.trans (widthField_widthOfField _), hdcyc,
    hsioo.trans (field_one _ _).symm, ?_, hinstr⟩
  exact (Laws.HeaderForm.header_reserved ..).trans hres.symm

/-- Settles O4: the header fields are encoded back as they were, and the mask of R70 is the remainder. -/
theorem encodeOfDecodeIsTheMaskedWord : Obligations.EncodeOfDecodeIsTheMaskedWord := by
  unfold Obligations.EncodeOfDecodeIsTheMaskedWord
  intro w i h
  obtain ⟨hres, ddr, hddr, hi⟩ := encode_of_decodeRequest h
  refine ⟨_, hi, encodeHeader_decodeIoCommand hres hddr _, rfl, ?_, ?_⟩
  · exact (and_widthMask_toNat ..).trans (by rw [bytes_widthOfField]; rfl)
  · exact (and_widthMask_toNat ..).trans (by rw [bytes_widthOfField]; rfl)

end Sys2Proof
end

section
/-! SUPPORT. Little-endian bytes as digits in base 256 (spec 20_memory.md R45; 30_encoding.md R65; 40_argument_encoding.md R84), and
the sixteen bytes of a request word. -/

namespace Sys2Proof

open Sys2Proof.Machine

/-! ### Bytes as digits -/

theorem byte_lt_256 (bs : List Byte) : ∀ x ∈ bs.map BitVec.toNat, x < 256 := by
  simp only [List.forall_mem_map]
  exact fun b _ => b.isLt

/-- Byte `k` of a little-endian sequence is digit `k` of its number. -/
theorem byte_eq_digit {bs : List Byte} {k : Nat} {b : Byte} (h : bs[k]? = some b) :
    b.toNat = Nat.ofDigits 256 (bs.map BitVec.toNat) / 256 ^ k % 256 := by
  obtain ⟨hk, rfl⟩ := List.getElem?_eq_some_iff.1 h
  rw [Nat.ofDigits_div_pow_eq_ofDigits_drop k (by decide) _ (byte_lt_256 bs), ← List.map_drop,
    List.drop_eq_getElem_cons hk, List.map_cons, Nat.ofDigits_cons, Nat.add_mul_mod_self_left,
    Nat.mod_eq_of_lt bs[k].isLt]

theorem ofDigits_wordToBytes (w : Word) : Nat.ofDigits 256 ((wordToBytes w).map BitVec.toNat) = w.toNat := by
  have := w.isLt
  simp only [wordToBytes, field, List.map_cons, List.map_nil, BitVec.extractLsb'_toNat, Nat.shiftRight_eq_div_pow,
    Nat.ofDigits_cons, Nat.ofDigits_nil]
  omega

@[simp] theorem wordToBytes_wordOfBytes (b0 b1 b2 b3 : Byte) : wordToBytes (wordOfBytes b0 b1 b2 b3) = [b0, b1, b2, b3] := by
  simp [wordToBytes, wordOfBytes, field_place_same, field_place_disjoint]

/-- A word is the number of its bytes, so equal bytes make equal words. -/
theorem wordToBytes_injective : Function.Injective wordToBytes := fun v w h =>
  BitVec.eq_of_toNat_eq (by rw [← ofDigits_wordToBytes v, h, ofDigits_wordToBytes])

theorem wordOfBytes_fields (w : Word) : wordOfBytes (field w 0 8) (field w 8 8) (field w 16 8) (field w 24 8) = w :=
  wordToBytes_injective (wordToBytes_wordOfBytes ..)

/-! ### A request word in memory and in the numbering of the opcode table -/

/-- The number whose bits, from bit 0 of `W0` on, are those of the request word: the inverse of `reqWordOfNat`. -/
def ReqWord.toNat (w : ReqWord) : Nat :=
  w.w0.toNat + 2 ^ 32 * w.w1.toNat + 2 ^ 64 * w.w2.toNat + 2 ^ 96 * w.w3.toNat

theorem ReqWord.toNat_lt (w : ReqWord) : w.toNat < 2 ^ 128 := by
  have h0 := w.w0.isLt
  have h1 := w.w1.isLt
  have h2 := w.w2.isLt
  have h3 := w.w3.isLt
  unfold ReqWord.toNat
  omega

theorem reqWordOfNat_toNat (w : ReqWord) : reqWordOfNat w.toNat = w := by
  obtain ⟨w0, w1, w2, w3⟩ := w
  have h0 := w0.isLt
  have h1 := w1.isLt
  have h2 := w2.isLt
  simp only [reqWordOfNat, ReqWord.toNat, ReqWord.mk.injEq]
  refine ⟨?_, ?_, ?_, ?_⟩ <;> apply BitVec.eq_of_toNat_eq <;> rw [BitVec.toNat_ofNat] <;> omega

theorem ofDigits_reqWordBytes (w : ReqWord) : Nat.ofDigits 256 ((reqWordBytes w).map BitVec.toNat) = w.toNat := by
  simp only [reqWordBytes, List.map_append, Nat.ofDigits_append, ofDigits_wordToBytes]
  simp only [wordToBytes, List.length_append, List.length_map, List.length_cons, List.length_nil, ReqWord.toNat]
  omega

theorem length_reqWordBytes (w : ReqWord) : (reqWordBytes w).length = 16 := rfl

theorem decodeBytes_reqWordBytes (w : ReqWord) : decodeBytes (reqWordBytes w) = decodeRequest w := by
  simp only [reqWordBytes, wordToBytes, List.cons_append, List.nil_append, decodeBytes, wordOfBytes_fields]

theorem decodeBytes_of_length {l : List Byte} (h : l.length ≠ 16) : decodeBytes l = .refused .wrongLength := by
  unfold decodeBytes
  split
  · exact absurd rfl h
  · rfl

theorem decodeTableWord_toNat (w : ReqWord) : decodeTableWord 128 w.toNat = (decodeRequest w).instr? := by
  have hlt := w.toNat_lt
  rw [decodeTableWord, Nat.mod_eq_of_lt hlt, if_pos hlt, reqWordOfNat_toNat, decodeBytes_reqWordBytes]

/-- Settles O5: the sixteen bytes are the base-256 digits of the word's number. -/
theorem requestBytesDecodeAsTheirWords : Obligations.RequestBytesDecodeAsTheirWords := by
  unfold Obligations.RequestBytesDecodeAsTheirWords
  refine ⟨fun w => ⟨decodeBytes_reqWordBytes w, length_reqWordBytes w, fun k b hb => ?digit, decodeTableWord_toNat w⟩,
    fun l => decodeBytes_of_length⟩
  case digit =>
    rw [byte_eq_digit hb, ofDigits_reqWordBytes]
    rfl

end Sys2Proof
end

section
/-! SUPPORT. The assembler (spec 30_encoding.md R79, R80): every operand it takes leaves arguments that fit the number of bytes
written, so what it answers is a well-formed request. -/

namespace Sys2Proof.Machine

open Sys2Proof

/-! ### The value of an argument (R84) -/

theorem toNat_wordOfBytes (b0 b1 b2 b3 : Byte) :
    (wordOfBytes b0 b1 b2 b3).toNat = Nat.ofDigits 256 ([b0, b1, b2, b3].map BitVec.toNat) := by
  rw [← ofDigits_wordToBytes, wordToBytes_wordOfBytes]

theorem toNat_argValue (a : ArgumentValue) :
    (argValue a).toNat = Nat.ofDigits 256 ((argBytes a).map BitVec.toNat) := by
  cases a <;> simp [argValue, argBytes, toNat_wordOfBytes, Nat.ofDigits_cons]

theorem length_argBytes (a : ArgumentValue) : (argBytes a).length = (argWidth a).bytes := by cases a <;> rfl

theorem toNat_argValue_lt (a : ArgumentValue) : (argValue a).toNat < 2 ^ (8 * (argWidth a).bytes) := by
  have hlt := Nat.ofDigits_lt_base_pow_length (by decide) (byte_lt_256 (argBytes a))
  rwa [← toNat_argValue, List.length_map, length_argBytes, show 256 = 2 ^ 8 from rfl, ← pow_mul] at hlt

theorem argumentOf_wf (a : ArgumentValue) : (argumentOf a).wf = true := decide_eq_true (toNat_argValue_lt a)

/-! ### The operands keep the arguments in their widths -/

theorem argumentOfText_wf {bytes : List Byte} {arg : Argument} (h : argumentOfText bytes = some arg) :
    arg.wf = true := by
  unfold argumentOfText at h
  split at h <;> cases h <;> exact argumentOf_wf _

theorem Command.wf_iff (c : Command) : c.wf = true ↔ c.addr.wf = true ∧ c.alt.wf = true := Bool.and_eq_true_iff

theorem takeI_wf {c : Command} {ops : List AsmOperand} {p : Command × List AsmOperand} (hc : c.wf = true)
    (h : takeI c ops = some p) : p.1.wf = true := by
  unfold takeI at h
  split at h
  · split at h <;> cases h
    exact hc
  · cases h
    exact hc

theorem takeA_wf {c : Command} {ops : List AsmOperand} {p : Command × List AsmOperand} (hc : c.wf = true)
    (h : takeA c ops = some p) : p.1.wf = true := by
  obtain ⟨-, halt⟩ := (Command.wf_iff c).1 hc
  unfold takeA at h
  split at h
  · split at h
    · next arg harg =>
      split at h <;> cases h
      exact (Command.wf_iff _).2 ⟨argumentOfText_wf harg, halt⟩
    · cases h
  · cases h
    exact hc

theorem takeAb_wf {c : Command} {ops : List AsmOperand} {p : Command × List AsmOperand} (hc : c.wf = true)
    (h : takeAb c ops = some p) : p.1.wf = true := by
  obtain ⟨haddr, -⟩ := (Command.wf_iff c).1 hc
  unfold takeAb at h
  split at h
  · split at h
    · next arg harg =>
      split at h <;> cases h
      exact (Command.wf_iff _).2 ⟨haddr, argumentOfText_wf harg⟩
    · cases h
  · cases h
    exact hc

theorem takeDdr_wf {c : Command} (hc : c.wf = true) (ops : List AsmOperand) : (takeDdr c ops).1.wf = true := by
  unfold takeDdr
  split <;> exact hc

theorem asmCommand_wf {ops : List AsmOperand} {p : Command × List AsmOperand} (h : asmCommand ops = some p) :
    p.1.wf = true := by
  obtain ⟨pi, hi, h⟩ := Option.bind_eq_some_iff.1 h
  obtain ⟨pa, ha, h⟩ := Option.bind_eq_some_iff.1 h
  obtain ⟨pab, hab, rfl⟩ := Option.map_eq_some_iff.1 h
  exact takeDdr_wf (takeAb_wf (takeA_wf (takeI_wf rfl hi) ha) hab) pab.2

/-! ### The operands of an IoCommand leave the Command as it is -/

theorem takeDc_toCommand {io : IoCommand} {ops : List AsmOperand} {p : IoCommand × List AsmOperand}
    (h : takeDc io ops = some p) : p.1.toCommand = io.toCommand := by
  unfold takeDc at h
  split at h
  · split at h <;> cases h
    rfl
  · cases h
    rfl

theorem takeD_toCommand {io : IoCommand} {ops : List AsmOperand} {p : IoCommand × List AsmOperand}
    (h : takeD io ops = some p) : p.1.toCommand = io.toCommand := by
  unfold takeD at h
  split at h
  · split at h <;> cases h
    rfl
  · cases h
    rfl

theorem takeSioo_toCommand (io : IoCommand) (ops : List AsmOperand) :
    (takeSioo io ops).1.toCommand = io.toCommand := by
  unfold takeSioo
  split <;> rfl

theorem asmIoCommand_wf {ops : List AsmOperand} {p : IoCommand × List AsmOperand} (h : asmIoCommand ops = some p) :
    p.1.toCommand.wf = true := by
  obtain ⟨pc, hc, h⟩ := Option.bind_eq_some_iff.1 h
  obtain ⟨pdc, hdc, h⟩ := Option.bind_eq_some_iff.1 h
  obtain ⟨pd, hd, rfl⟩ := Option.map_eq_some_iff.1 h
  rw [takeSioo_toCommand, takeD_toCommand hd, takeDc_toCommand hdc]
  exact asmCommand_wf hc

/-! ### What assembles -/

/-- What assembles is a request whose arguments fit their widths. -/
theorem assemble_request {k : ReqKind} {ops : List AsmOperand} {i : Instr} (h : assemble k ops = some i) :
    i.wf = true ∧ ∃ w, encode i = .request w := by
  cases k with
  | cmd =>
    obtain ⟨p, hp, h⟩ := Option.bind_eq_some_iff.1 h
    split at h <;> cases h
    exact ⟨asmCommand_wf hp, _, rfl⟩
  | read | write =>
    obtain ⟨p, hp, h⟩ := Option.bind_eq_some_iff.1 h
    obtain ⟨n, -, rfl⟩ := Option.map_eq_some_iff.1 h
    exact ⟨asmIoCommand_wf hp, _, rfl⟩
  | map =>
    obtain ⟨p, hp, h⟩ := Option.bind_eq_some_iff.1 h
    split at h <;> cases h
    exact ⟨asmIoCommand_wf hp, _, rfl⟩

/-- A line assembles as its mnemonic and its operands do. -/
theorem assemble_of_assembleLine {text : List Char} {i : Instr} (h : assembleLine text = some i) :
    ∃ k ops, assemble k ops = some i := by
  unfold assembleLine at h
  split at h
  · cases h
  · obtain ⟨k, -, h⟩ := Option.bind_eq_some_iff.1 h
    obtain ⟨ops, -, h⟩ := Option.bind_eq_some_iff.1 h
    exact ⟨k, ops, h⟩

/-- Settles O7: what assembles is well formed, and decoding after encoding gives it back. -/
theorem assembledLineIsARequest : Obligations.AssembledLineIsARequest := by
  unfold Obligations.AssembledLineIsARequest
  intro text i h
  obtain ⟨k, ops, hasm⟩ := assemble_of_assembleLine h
  obtain ⟨hwf, w, hw⟩ := assemble_request hasm
  have hround : decode (encode i) = .ok i := decodeOfEncodeIsTheInstruction i hwf
  rw [hw] at hround
  exact ⟨hwf, w, hw, hround⟩

/-- Settles O8: the assembler and the encoder run on the six lines. -/
theorem workedLinesAssemble : Obligations.WorkedLinesAssemble := by
  unfold Obligations.WorkedLinesAssemble
  decide

end Sys2Proof.Machine
end

section
/-! SUPPORT. The access kinds outside the sequencer states that issue them, and the byte accesses past the buffer (spec
20_memory.md R52; 30_encoding.md R78; 42_executor_sequencer.md R130). -/

namespace Sys2Proof.Machine

open Sys2Proof

theorem State.bufRead_of_le {s : State} {i : Word} (h : s.len.toNat ≤ i.toNat) : s.bufRead i = none :=
  if_neg (Nat.not_lt.2 h)

theorem State.bufWrite_of_le {s : State} {i : Word} (h : s.len.toNat ≤ i.toNat) (b : Byte) : s.bufWrite i b = none :=
  if_neg (Nat.not_lt.2 h)

/-- RD_SR is issued in the polling states alone (R132). -/
theorem issued_rdSr_iff {q : Seq} : issued q = some .rdSr ↔ q.polling = true := by cases q <;> decide

theorem issued_rdDr8_iff {q : Seq} : issued q = some .rdDr8 ↔ q = .rdPop := by cases q <;> decide

theorem issued_wrDr8_iff {q : Seq} : issued q = some .wrDr8 ↔ q = .wrPush := by cases q <;> decide

theorem execRdSr_of_not_polling {s : State} (h : s.seq.polling = false) : execRdSr s = .refused (.notIssuedHere s.seq) := by
  cases hq : s.seq
  case busywait | cmdWait | rdPoll | wrPoll | wrDrain => simp [hq, Seq.polling] at h
  all_goals simp [execRdSr, hq]

theorem exec_of_not_issued {i : Instr} {a : Access} {s : State} (hi : encode i = .access a)
    (h : issued s.seq ≠ some i) : exec i s = .refused (.notIssuedHere s.seq) := by
  cases i with
  | cmd | read | write | map => cases hi
  | rdSr => exact execRdSr_of_not_polling (Bool.eq_false_iff.2 fun hq => h (issued_rdSr_iff.2 hq))
  | wrDlr | wrAbr | wrCcr | wrAr | rdDr8 | wrDr8 => exact if_neg fun hq => h (by rw [hq]; rfl)

theorem execRdDr8_of_le {s : State} (hq : s.seq = .rdPop) (h : s.len.toNat ≤ s.idx.toNat) :
    execRdDr8 s = .fault .bufIndexOutOfRange := by
  rw [execRdDr8, if_pos hq, State.bufWrite_of_le (s := s.afterDrRead) h]

theorem execWrDr8_of_le {s : State} (hq : s.seq = .wrPush) (h : s.len.toNat ≤ s.idx.toNat) :
    execWrDr8 s = .fault .bufIndexOutOfRange := by
  rw [execWrDr8, if_pos hq, State.bufRead_of_le h]

/-- Settles O34: each access tests its sequencer state first, and a byte access then its index. -/
theorem accessElsewhereStopsByName : Obligations.AccessElsewhereStopsByName := by
  unfold Obligations.AccessElsewhereStopsByName
  refine fun i a s hi => ⟨exec_of_not_issued hi, fun hissued hbyte hle => ?_⟩
  rcases hbyte with rfl | rfl
  · exact execRdDr8_of_le (issued_rdDr8_iff.1 hissued) hle
  · exact execWrDr8_of_le (issued_wrDr8_iff.1 hissued) hle

end Sys2Proof.Machine
end

section
/-! SUPPORT. The argument encoding (spec 40_argument_encoding.md R84 to R87) and the CCR size fields that follow its byte width
(41_register_compiler.md R95). -/

namespace Sys2Proof.Machine

open Sys2Proof

/-! ### The value of an argument and an argument built from a number -/

/-- Settles O9: the digits are bytes, so the sum lies below `256^w`. -/
theorem argumentValueIsTheLittleEndianSum : Obligations.ArgumentValueIsTheLittleEndianSum := by
  unfold Obligations.ArgumentValueIsTheLittleEndianSum
  exact fun a => ⟨toNat_argValue a, length_argBytes a, toNat_argValue_lt a⟩

@[simp] theorem argWidth_argFromU32 (v : Word) (w : ByteWidth) : argWidth (argFromU32 v w) = w := by cases w <;> rfl

/-- `arg_from_u32` keeps the low bytes of the word in their order (R87). -/
theorem argBytes_argFromU32 (v : Word) (w : ByteWidth) : argBytes (argFromU32 v w) = (wordToBytes v).take w.bytes := by
  cases w <;> rfl

/-- Each byte kept is the byte of the number at the same place. -/
theorem byte_argFromU32 {v : Word} {w : ByteWidth} {k : Nat} {b : Byte} (h : (argBytes (argFromU32 v w))[k]? = some b) :
    b.toNat = v.toNat / 256 ^ k % 256 := by
  obtain ⟨-, hword⟩ : k < w.bytes ∧ (wordToBytes v)[k]? = some b := by
    simpa [argBytes_argFromU32, List.getElem?_take] using h
  rw [byte_eq_digit hword, ofDigits_wordToBytes]

/-- Keeping `w` digits in base 256 is reduction modulo `256^w`. -/
theorem toNat_argValue_argFromU32 (v : Word) (w : ByteWidth) :
    (argValue (argFromU32 v w)).toNat = v.toNat % 2 ^ (8 * w.bytes) := by
  rw [toNat_argValue, argBytes_argFromU32, List.map_take,
    ← Nat.ofDigits_mod_pow_eq_ofDigits_take w.bytes (by decide) _ (byte_lt_256 (wordToBytes v)), ofDigits_wordToBytes,
    pow_mul, show 2 ^ 8 = 256 from rfl]

/-- Dropping the bytes above the width is masking them (R70, R87). -/
theorem argumentOf_argFromU32 (v : Word) (w : ByteWidth) : argumentOf (argFromU32 v w) = maskedArgument w v := by
  have hvalue : argValue (argFromU32 v w) = v &&& widthMask w :=
    BitVec.eq_of_toNat_eq (by rw [toNat_argValue_argFromU32, and_widthMask_toNat])
  rw [argumentOf, argWidth_argFromU32, hvalue, maskedArgument]

/-- Settles O10: the argument holds the first `w` bytes of the word, which are its value's low digits. -/
theorem argumentFromNumberTruncates : Obligations.ArgumentFromNumberTruncates := by
  unfold Obligations.ArgumentFromNumberTruncates
  exact fun v w => ⟨argWidth_argFromU32 v w, fun _ _ => byte_argFromU32, toNat_argValue_argFromU32 v w,
    argumentOf_argFromU32 v w⟩

/-! ### The size fields of CCR -/

theorem toNat_sizeCode (w : ByteWidth) : (sizeCode w).toNat = w.bytes - 1 := by cases w <;> rfl

theorem LineWidth.present_iff {lw : LineWidth} : lw.present = true ↔ lw ≠ .none := by cases lw <;> decide

theorem adsizeField_of_present {d : Latch} (h : d.adlw ≠ .none) : adsizeField d = sizeCode d.adw :=
  if_pos (LineWidth.present_iff.2 h)

theorem absizeField_of_present {d : Latch} (h : d.ablw ≠ .none) : absizeField d = sizeCode d.abw :=
  if_pos (LineWidth.present_iff.2 h)

/-- The default layout is one of disjoint fields (R23, D6). -/
theorem ccrLayout_disjoint : ccrLayout.disjoint := by
  unfold Config.CcrLayout.disjoint
  decide

/-- Settles O11: the field reads back, and that of a present phase is the size code of its byte width. -/
theorem sizeCodeFollowsTheByteWidth : Obligations.SizeCodeFollowsTheByteWidth := by
  unfold Obligations.SizeCodeFollowsTheByteWidth
  refine fun d m => ⟨fun h => ?address, fun h => ?alternate⟩
  case address =>
    have hfield : field (ccr ccrLayout d m) 12 2 = adsizeField d :=
      field_ccr ccrLayout_disjoint (s := ⟨ccrLayout.adsize, 2, adsizeField d⟩) (by simp [ccrSlots])
    rw [← toNat_sizeCode, ← adsizeField_of_present h, ← hfield, field]
  case alternate =>
    have hfield : field (ccr ccrLayout d m) 16 2 = absizeField d :=
      field_ccr ccrLayout_disjoint (s := ⟨ccrLayout.absize, 2, absizeField d⟩) (by simp [ccrSlots])
    rw [← toNat_sizeCode, ← absizeField_of_present h, ← hfield, field]

end Sys2Proof.Machine
end

section
/-! SUPPORT. The whole CCR word, field by field (spec 41_register_compiler.md R91 to R103; 92_eei_decisions.md D6): every field
reads back under every layout of disjoint fields, and so at the default positions. -/

namespace Sys2Proof.Machine

open Sys2Proof

/-! ### Every layout of disjoint fields -/

/-- A flag placed as a one-bit field is the bit there. -/
theorem bit_of_field_one {w : Word} {p : Nat} {b : Bool} (h : field w p 1 = flagBit b) : bit w p = b :=
  flagBit_inj.1 ((field_one w p).symm.trans h)

/-- The bits that belong to no field are 0 (R102), whether or not the fields are disjoint. -/
theorem bit_ccr_of_no_field {l : Config.CcrLayout} {p : Nat} (h : ∀ f ∈ l.slots, p < f.1 ∨ f.1 + f.2 ≤ p) (d : Latch)
    (m : FuncMode) : bit (ccr l d m) p = false := by
  rw [← map_ccrSlots l d m, List.forall_mem_map] at h
  have hfield : field (ccr l d m) p 1 = 0 := by
    rw [ccr_eq_packed]
    exact field_packed_of_avoids fun s hs => (h s hs).symm
  exact bit_of_field_one hfield

/-- Settles O13: CCR is the OR of its slots, so each of them reads back, a one-bit one as its flag. -/
theorem ccrFieldsReadBackUnderEveryDisjointLayout : Obligations.CcrFieldsReadBackUnderEveryDisjointLayout := by
  unfold Obligations.CcrFieldsReadBackUnderEveryDisjointLayout
  intro l d m hl
  obtain ⟨hinstruction, himode, hadmode, hadsize, habmode, habsize, hdcyc, hdmode, hfmode, hsioo, hdhhc, hddrm⟩ :=
    List.forall_iff_forall_mem.2 fun s (hs : s ∈ ccrSlots l d m) => field_ccr hl hs
  exact ⟨hinstruction, himode, hadmode, hadsize, habmode, habsize, hdcyc, hdmode, hfmode, bit_of_field_one hsioo,
    bit_of_field_one hdhhc, bit_of_field_one hddrm, fun p hp => bit_ccr_of_no_field hp d m⟩

/-! ### The default layout -/

theorem instructionField_eq (d : Latch) : instructionField d = if d.ilw = .none then 0 else d.instr := by
  simp [instructionField, LineWidth.present_iff]

theorem adsizeField_eq (d : Latch) : adsizeField d = if d.adlw = .none then 0 else sizeCode d.adw := by
  simp [adsizeField, LineWidth.present_iff]

theorem absizeField_eq (d : Latch) : absizeField d = if d.ablw = .none then 0 else sizeCode d.abw := by
  simp [absizeField, LineWidth.present_iff]

theorem ddrHoldBit_eq (m : DdrMode) : ddrHoldBit m = decide (m = .enabledWithHold) := by cases m <;> rfl

theorem ddrEnableBit_eq (m : DdrMode) : ddrEnableBit m = decide (m ≠ .disabled) := by cases m <;> rfl

/-- Settles O12: the default layout is one of disjoint fields, and bits 23 and 29 lie in none of them. -/
theorem ccrFieldsHoldTheirValues : Obligations.CcrFieldsHoldTheirValues := by
  unfold Obligations.CcrFieldsHoldTheirValues
  refine ⟨⟨rfl, rfl, rfl, rfl⟩, ⟨rfl, rfl, rfl, rfl⟩, ⟨rfl, rfl, rfl, rfl⟩, toNat_sizeCode, fun d m => ?_⟩
  obtain ⟨hinstruction, himode, hadmode, hadsize, habmode, habsize, hdcyc, hdmode, hfmode, hsioo, hdhhc, hddrm, hzero⟩ :=
    ccrFieldsReadBackUnderEveryDisjointLayout ccrLayout d m ccrLayout_disjoint
  rw [instructionField_eq] at hinstruction
  rw [adsizeField_eq] at hadsize
  rw [absizeField_eq] at habsize
  rw [ddrHoldBit_eq] at hdhhc
  rw [ddrEnableBit_eq] at hddrm
  exact ⟨hinstruction, himode, hadmode, hadsize, habmode, habsize, hdcyc, hzero 23 (by decide), hdmode, hfmode, hsioo,
    hzero 29 (by decide), hdhhc, hddrm⟩

end Sys2Proof.Machine
end

section
/-! SUPPORT. The launch point (spec 41_register_compiler.md R109; 90_conflicts.md C1) in terms of the latch, and what the writes
of CCR, AR and DR make of the launch record (log 8). -/

namespace Sys2Proof.Machine

open Sys2Proof

/-! ### The launch point of a latch in which a CMD has no data width (R92) -/

section

variable {d : Latch} (h : d.op ≠ .cmd ∨ d.dlw = .none)

include h

/-- CMD shares the functional mode Write with WRITE; having no data phase, it never launches with DR. -/
theorem launchPoint_eq : launchPoint d =
    if d.op = .map then .noExplicitLaunch
    else if d.op = .write ∧ d.dlw ≠ .none then .firstWriteDr
    else if d.adlw ≠ .none then .writeAr
    else .writeCcr := by
  cases hop : d.op with
  | cmd =>
    have hdlw : d.dlw = .none := h.resolve_left fun hne => hne hop
    simp [launchPoint, fm, hop, hdlw, LineWidth.present_iff]
  | read | write | map => simp [launchPoint, fm, hop, LineWidth.present_iff]

theorem launchPoint_eq_writeCcr_iff : launchPoint d = .writeCcr ↔
    d.op ≠ .map ∧ ¬(d.op = .write ∧ d.dlw ≠ .none) ∧ d.adlw = .none := by
  rw [launchPoint_eq h]
  split_ifs <;> simp_all

theorem launchPoint_eq_writeAr_iff : launchPoint d = .writeAr ↔
    d.op ≠ .map ∧ ¬(d.op = .write ∧ d.dlw ≠ .none) ∧ d.adlw ≠ .none := by
  rw [launchPoint_eq h]
  split_ifs <;> simp_all

theorem launchPoint_eq_firstWriteDr_iff : launchPoint d = .firstWriteDr ↔ d.op = .write ∧ d.dlw ≠ .none := by
  rw [launchPoint_eq h]
  split_ifs <;> simp_all

end

/-! ### The launch record after an access -/

/-- A CCR write starts the record anew. -/
theorem launched_of_execWrCcr {s t : State} (h : execWrCcr s = .next t) :
    t.periph.launched = true ↔ launchPoint s.d = .writeCcr := by
  obtain ⟨-, rfl⟩ := execWrCcr_next h
  simp [Periph.write]

theorem launched_of_execWrAr {s t : State} (h : execWrAr s = .next t) :
    t.periph.launched = true ↔ s.periph.launched = true ∨ launchPoint s.d = .writeAr := by
  obtain ⟨-, rfl⟩ := execWrAr_next h
  simp [Periph.write]

theorem launched_of_execWrDr8 {s t : State} (h : execWrDr8 s = .next t) :
    t.periph.launched = true ↔ s.periph.launched = true ∨ launchPoint s.d = .firstWriteDr := by
  obtain ⟨-, -, rfl⟩ := execWrDr8_next h
  simp

/-- Settles O35: each of the three accesses records its own launch point, and R109 says which latches have it. -/
theorem launchFollowsTheLaunchPoint : Obligations.LaunchFollowsTheLaunchPoint := by
  unfold Obligations.LaunchFollowsTheLaunchPoint
  refine fun s t hcmd => ⟨fun h => ?ccr, fun h => ?ar, fun h => ?dr⟩
  case ccr => rw [launched_of_execWrCcr h, launchPoint_eq_writeCcr_iff hcmd]
  case ar => rw [launched_of_execWrAr h, launchPoint_eq_writeAr_iff hcmd]
  case dr => rw [launched_of_execWrDr8 h, launchPoint_eq_firstWriteDr_iff hcmd]

end Sys2Proof.Machine
end

section
/-! SUPPORT. The executor rule by rule (spec 42_executor_sequencer.md R114 to R129): what a request leaves in an accepting state,
what each access kind leaves in the sequencer state that issues it, and the states in which nothing happens. -/

namespace Sys2Proof.Machine

open Sys2Proof

/-! ### Requests in an accepting state (R114) -/

/-- Settles O16: an accepting state takes the offer. -/
theorem cmdFillsTheLatch : Obligations.CmdFillsTheLatch := by
  unfold Obligations.CmdFillsTheLatch
  exact fun c s ha => congrArg Host.Outcome.next (State.offered_accepting ha (latchCommand .cmd c) 0)

/-- Settles O17: an accepting state takes the offer, whatever its length. -/
theorem readFillsTheLatch : Obligations.ReadFillsTheLatch := by
  unfold Obligations.ReadFillsTheLatch
  exact fun io len s ha => congrArg Host.Outcome.next (State.offered_accepting ha (latchIoCommand .read io) len)

/-- Settles O18: an accepting state takes the offer, whatever its length. -/
theorem writeFillsTheLatch : Obligations.WriteFillsTheLatch := by
  unfold Obligations.WriteFillsTheLatch
  exact fun io len s ha => congrArg Host.Outcome.next (State.offered_accepting ha (latchIoCommand .write io) len)

/-- Settles O19: an accepting state takes the offer. -/
theorem mapFillsTheLatch : Obligations.MapFillsTheLatch := by
  unfold Obligations.MapFillsTheLatch
  exact fun io s ha => congrArg Host.Outcome.next (State.offered_accepting ha (latchIoCommand .map io) 0)

theorem not_requestOffered_of_nil {s : State} (hp : s.port = []) : ¬s.requestOffered := by
  rintro ⟨o, rest, i, hp', -⟩
  simp [hp] at hp'

theorem not_requestOffered_of_refused {s : State} {o : Offer} {rest : List Offer} {r : Reject} (hp : s.port = o :: rest)
    (hd : decodeRequest o.word = .refused r) : ¬s.requestOffered := by
  rintro ⟨o', rest', i, hp', hd'⟩
  obtain ⟨rfl, -⟩ := List.cons.inj (hp.symm.trans hp')
  simp [hd] at hd'

/-- Settles O22: an empty port and a refused word are the two ways of having no well-formed request there. -/
theorem noRequestAndRefusedWordChangeNothing : Obligations.NoRequestAndRefusedWordChangeNothing := by
  unfold Obligations.NoRequestAndRefusedWordChangeNothing
  exact fun s hr ha => ⟨fun hp => step_of_no_request hr ha (not_requestOffered_of_nil hp),
    fun o rest r hp hd => step_of_no_request hr ha (not_requestOffered_of_refused hp hd)⟩

/-! ### The polls (R115, R122, R123, R125, R127) -/

@[simp] theorem pollEnds_busywait (l : Config.SrLayout) (v : Word) : pollEnds l .busywait v = !srBusy l v := rfl
@[simp] theorem pollEnds_cmdWait (l : Config.SrLayout) (v : Word) : pollEnds l .cmdWait v = srTcf l v := rfl
@[simp] theorem pollEnds_rdPoll (l : Config.SrLayout) (v : Word) : pollEnds l .rdPoll v = (srFtf l v || srTcf l v) := rfl
@[simp] theorem pollEnds_wrPoll (l : Config.SrLayout) (v : Word) : pollEnds l .wrPoll v = srFtf l v := rfl
@[simp] theorem pollEnds_wrDrain (l : Config.SrLayout) (v : Word) : pollEnds l .wrDrain v = srTcf l v := rfl

/-- RD_SR in a polling state is one poll iteration towards the poll's target. -/
theorem exec_rdSr_of_polling {s : State} (hp : s.seq.polling = true) : exec .rdSr s = .next (s.poll (pollNext s)) := by
  cases hq : s.seq
  case busywait | cmdWait | rdPoll | wrPoll | wrDrain => simp [exec, execRdSr, pollNext, hq]
  all_goals simp [hq, Seq.polling] at hp

/-- The same with every change written out; `q` is where the value read leaves `SEQ`. -/
theorem exec_rdSr_eq {s : State} {q : Seq} (hp : s.seq.polling = true)
    (hq : (if pollEnds s.params.sr s.seq s.srAnswer then pollNext s else s.seq) = q) :
    exec .rdSr s = .next { s with
      seq := q, srScript := s.srScript.tail, srCount := s.srCount + 1
      trace := s.trace ++ [.rd .sr (.word s.srAnswer)] } := by
  subst hq
  exact exec_rdSr_of_polling hp

/-- The dispatch after the busy-wait as R116 words it. -/
theorem afterBusy_eq (op : ReqKind) :
    afterBusy op = if op = .read ∨ op = .write then .lenprog else .cfgAbr := by cases op <;> rfl

/-- Settles O23: the poll ends when BUSY is clear, and its target depends on `D.OP` alone. -/
theorem busyWaitReadsSrAndTestsBusy : Obligations.BusyWaitReadsSrAndTestsBusy := by
  unfold Obligations.BusyWaitReadsSrAndTestsBusy
  refine fun s hq => exec_rdSr_eq (by rw [hq]; rfl) ?_
  have hbusy : s.srAnswer.getLsbD s.params.sr.busy = srBusy s.params.sr s.srAnswer := rfl
  rw [← afterBusy_eq, hbusy, hq, pollEnds_busywait]
  cases srBusy s.params.sr s.srAnswer <;> simp [pollNext, hq]

/-- Settles O24: the poll of CMD_WAIT. -/
theorem commandWaitReadsSrAndTestsTransferComplete : Obligations.CommandWaitReadsSrAndTestsTransferComplete := by
  unfold Obligations.CommandWaitReadsSrAndTestsTransferComplete
  exact fun s hq => exec_rdSr_eq (by rw [hq]; rfl) (by simp [hq, pollNext, srTcf, bit])

/-- Settles O25: the poll of RD_POLL. -/
theorem readPollReadsSrAndTestsEitherFlag : Obligations.ReadPollReadsSrAndTestsEitherFlag := by
  unfold Obligations.ReadPollReadsSrAndTestsEitherFlag
  exact fun s hq => exec_rdSr_eq (by rw [hq]; rfl) (by simp [hq, pollNext, srFtf, srTcf, bit])

/-- Settles O26: the poll of WR_POLL. -/
theorem writePollReadsSrAndTestsFifoThreshold : Obligations.WritePollReadsSrAndTestsFifoThreshold := by
  unfold Obligations.WritePollReadsSrAndTestsFifoThreshold
  exact fun s hq => exec_rdSr_eq (by rw [hq]; rfl) (by simp [hq, pollNext, srFtf, bit])

/-- Settles O27: the poll of WR_DRAIN. -/
theorem writeDrainReadsSrAndTestsTransferComplete : Obligations.WriteDrainReadsSrAndTestsTransferComplete := by
  unfold Obligations.WriteDrainReadsSrAndTestsTransferComplete
  exact fun s hq => exec_rdSr_eq (by rw [hq]; rfl) (by simp [hq, pollNext, srTcf, bit])

/-! ### The configuration writes (R117 to R120) -/

/-- A length that is not zero does not wrap when 1 is taken from it (R106). -/
theorem dlr_toNat {len : Word} (h : len ≠ 0) : (dlr len).toNat + 1 = len.toNat := by
  rw [dlr]
  bv_omega

theorem abr_eq (d : Latch) : abr d = if d.ablw = .none then 0 else d.alt := by
  simp [abr, LineWidth.present_iff]

theorem ar_eq (d : Latch) : ar d = if d.adlw = .none then 0 else d.addr := by
  simp [ar, LineWidth.present_iff]

/-- Settles O28: the two branches of WR_DLR in LENPROG. -/
theorem lengthStepProgramsOrFaults : Obligations.LengthStepProgramsOrFaults := by
  unfold Obligations.LengthStepProgramsOrFaults
  refine fun s hq => ⟨fun hlen => ?zero, fun hlen => ⟨dlr s.len, dlr_toNat hlen, ?program⟩⟩
  case zero => exact (if_pos hq).trans (if_pos hlen)
  case program => exact (if_pos hq).trans (if_neg hlen)

/-- Settles O29: WR_ABR in CFG_ABR. -/
theorem configWritesAbr : Obligations.ConfigWritesAbr := by
  unfold Obligations.ConfigWritesAbr
  intro s hq
  rw [← abr_eq]
  exact if_pos hq

/-- Settles O30: WR_CCR in CFG_CCR. -/
theorem configWritesCcr : Obligations.ConfigWritesCcr := by
  unfold Obligations.ConfigWritesCcr
  exact fun s hq => ⟨_, if_pos hq⟩

/-- Settles O31: WR_AR in CFG_AR, whose target is the dispatch `afterConfig`. -/
theorem configWritesAr : Obligations.ConfigWritesAr := by
  unfold Obligations.ConfigWritesAr
  intro s hq
  rw [← ar_eq]
  exact ⟨_, if_pos hq⟩

/-! ### The byte steps (R124, R126) -/

/-- Settles O32: the byte stands where `Memory.write` puts it. -/
theorem readPopStoresTheByte : Obligations.ReadPopStoresTheByte := by
  unfold Obligations.ReadPopStoresTheByte
  exact fun s hq hlt hwf => ⟨_, Memory.read_write hwf s.idx.toNat s.drAnswer, execRdDr8_of_lt hq hlt⟩

/-- Settles O33: WR_DR8 sends the next byte and only reads BUF. -/
theorem writePushSendsTheByte : Obligations.WritePushSendsTheByte := by
  unfold Obligations.WritePushSendsTheByte
  exact fun s hq hlt => ⟨_, execWrDr8_of_lt hq hlt⟩

/-! ### FAULTED (R129) -/

theorem step_of_faulted {s : State} (hr : s.resetIn = false) (hq : s.seq = .faulted) : step s = .fault .zeroLength := by
  simp [step, hr, hq]

/-- Settles O37: FAULTED is no accepting state, so a request waits there too. -/
theorem faultedHasNoStep : Obligations.FaultedHasNoStep := by
  unfold Obligations.FaultedHasNoStep
  exact fun s hq hr => ⟨step_of_faulted hr hq, fun i w hi => exec_request_waiting (by rw [hq]; rfl) hi⟩

end Sys2Proof.Machine
end

section
/-! SUPPORT. The latch of an acceptance against the header of the word it comes from (spec 30_encoding.md R66 to R71;
42_executor_sequencer.md R114). -/

namespace Sys2Proof.Machine

open Sys2Proof

/-- The latch that the acceptance of a word leaves, of whatever kind: a CMD's word has zeros where its latch does (R72, R92). -/
def latchOfWord (w : ReqWord) (ddr : DdrMode) : Latch :=
  latchIoCommand (opOfCode (field w.w0 0 2)) (decodeIoCommand w ddr)

/-- Running a decoded request offers the latch of its word and the length `W3`. -/
theorem exec_eq_offered_latchOfWord {w : ReqWord} {i : Instr} (h : decodeRequest w = .ok i) :
    ∃ ddr, ddrOfCode (field w.w0 2 2) = some ddr ∧ ∀ s, exec i s = .next (s.offered (latchOfWord w ddr) w.w3) := by
  obtain ⟨-, ddr, hddr, hkind⟩ := decodeRequest_ok h
  refine ⟨ddr, hddr, fun s => ?_⟩
  rcases hkind with ⟨hop, hdlw, hdcyc, hsioo, hlen, rfl⟩ | ⟨hop, rfl⟩ | ⟨hop, rfl⟩ | ⟨hop, hlen, rfl⟩
  · have hlatch : latchOfWord w ddr = latchCommand .cmd (decodeCommand w ddr) := by
      simp only [latchOfWord, latchIoCommand, latchCommand, decodeIoCommand, hop, hdlw, hdcyc, hsioo]
    rw [hlatch, hlen]
    rfl
  · rw [latchOfWord, hop]
    rfl
  · rw [latchOfWord, hop]
    rfl
  · rw [latchOfWord, hop, hlen]
    rfl

/-- A decoded request has a buffer exactly when its `OP` code is READ or WRITE (R63, R67). -/
theorem hasBuffer_of_decodeRequest {w : ReqWord} {i : Instr} (h : decodeRequest w = .ok i) :
    hasBuffer i = true ↔ field w.w0 0 2 = 1 ∨ field w.w0 0 2 = 2 := by
  obtain ⟨-, ddr, -, ⟨hop, -, -, -, -, rfl⟩ | ⟨hop, rfl⟩ | ⟨hop, rfl⟩ | ⟨hop, -, rfl⟩⟩ := decodeRequest_ok h
  all_goals simp [opOfCode_eq_iff.1 hop, hasBuffer, opCode]

theorem offeredBuf_of_none {i : Instr} {o : Offer} (h : o.buf = none) (m : Memory) : offeredBuf i o m = m := by
  simp [offeredBuf, h]

theorem offeredBuf_of_not_hasBuffer {i : Instr} (h : hasBuffer i = false) (o : Offer) (m : Memory) :
    offeredBuf i o m = m := by
  cases ho : o.buf <;> simp [offeredBuf, ho, h]

theorem offeredBuf_of_some {i : Instr} {o : Offer} {bs : List Byte} (hi : hasBuffer i = true) (h : o.buf = some bs)
    (m : Memory) : offeredBuf i o m = Memory.ofBytes bs := by
  simp [offeredBuf, h, hi]

/-- Settles O21: each field of `latchOfWord` is read off its code, and BUF is `offeredBuf`. -/
theorem acceptanceLatchesTheOfferedWord : Obligations.AcceptanceLatchesTheOfferedWord := by
  unfold Obligations.AcceptanceLatchesTheOfferedWord
  intro s o rest i hr ha hp hd
  obtain ⟨ddr, hddr, hexec⟩ := exec_eq_offered_latchOfWord hd
  have hstep : step s = .next ((s.takeOffer i o rest).accept (latchOfWord o.word ddr) o.word.w3) := by
    rw [step_accepting hr ha hp hd, hexec, State.offered_accepting (s := s.takeOffer i o rest) ha]
  have hbuf := hasBuffer_of_decodeRequest hd
  refine ⟨_, hstep, opCode_opOfCode _, ddrCode_of_ddrOfCode hddr, lineCode_lineOfCode _, lineCode_lineOfCode _,
    lineCode_lineOfCode _, lineCode_lineOfCode _, bytes_widthOfField _, bytes_widthOfField _, rfl, rfl, rfl,
    and_widthMask_toNat _ _, and_widthMask_toNat _ _, fun hop => ?noBuffer, fun hop bs hbs k b hk => ?named,
    fun hnone => offeredBuf_of_none hnone _, rfl⟩
  case noBuffer =>
    have hcodes : ∀ c : BitVec 2, c = 0 ∨ c = 3 → ¬(c = 1 ∨ c = 2) := by decide
    exact offeredBuf_of_not_hasBuffer (Bool.eq_false_iff.2 fun hi => hcodes _ hop (hbuf.1 hi)) _ _
  case named =>
    rw [State.accept_buf, State.takeOffer_buf, offeredBuf_of_some (hbuf.2 hop) hbs, Memory.read_ofBytes, hk,
      Option.getD_some]

end Sys2Proof.Machine
end

section
/-! SUPPORT. Progress and the transition table (spec 42_executor_sequencer.md R113, R130): from a state that meets the invariant
every step with a request in flight serves its access, and an access served is one arc of the table. -/

namespace Sys2Proof.Machine

open Sys2Proof

/-- The invariant keeps the byte steps below the length (R131), so an access in flight is always served. -/
theorem State.Inv.step_eq_served {s : State} (hs : s.Inv) (hr : s.resetIn = false) (hf : s.seq.inFlight = true) :
    step s = .next s.served := by
  rw [Machine.step_eq_served hr hf, if_neg]
  rintro ⟨hq, hle⟩
  have hlt : s.idx.toNat < s.len.toNat := hs.idx_lt (by rcases hq with hq | hq <;> rw [hq] <;> rfl)
  omega

/-- Settles O44: reset, acceptance, an accepting state with no request, and an access in flight. -/
theorem everyStepCompletesOutsideFaulted : Obligations.EveryStepCompletesOutsideFaulted := by
  unfold Obligations.EveryStepCompletesOutsideFaulted
  intro s hs hlive
  cases hr : s.resetIn with
  | true => exact ⟨_, step_of_reset hr⟩
  | false =>
    have hq : s.seq ≠ .faulted := hlive.resolve_left (by simp [hr])
    rcases Seq.class_cases s.seq with ha | hf | hq'
    · by_cases hreq : s.requestOffered
      · obtain ⟨o, rest, i, hp, hd⟩ := hreq
        obtain ⟨d, -, -, hstep⟩ := step_accepts hd
        exact ⟨_, hstep s rest hr ha hp⟩
      · exact ⟨_, step_of_no_request hr ha hreq⟩
    · exact ⟨_, hs.step_eq_served hr hf⟩
    · exact absurd hq' hq

/-! ### The arcs of the accesses -/

/-- A poll iteration is an arc, whatever value it reads. -/
theorem arc_of_polling {s : State} (hp : s.seq.polling = true) (v : Word) :
    Arc s (if pollEnds s.params.sr s.seq v then pollNext s else s.seq) [.rd .sr (.word v)] := by
  cases hq : s.seq
  case busywait =>
    cases hv : srBusy s.params.sr v
    · cases hop : s.d.op
      case read | write => simpa [hv, hq, hop, pollNext, afterBusy] using Arc.busyLen hq hv (by simp [hop])
      case cmd | map => simpa [hv, hq, hop, pollNext, afterBusy] using Arc.busyCfg hq hv (by simp [hop])
    · simpa [hv] using Arc.busy hq hv
  case cmdWait =>
    cases hv : srTcf s.params.sr v
    · simpa [hv] using Arc.cmdWait hq hv
    · simpa [hv, hq, pollNext] using Arc.cmdDone hq hv
  case rdPoll =>
    by_cases hv : srFtf s.params.sr v = true ∨ srTcf s.params.sr v = true
    · simpa [hv, hq, pollNext] using Arc.rdReady hq hv
    · obtain ⟨hftf, htcf⟩ := not_or.1 hv
      simpa [hftf, htcf] using Arc.rdWait hq (Bool.eq_false_iff.2 hftf) (Bool.eq_false_iff.2 htcf)
  case wrPoll =>
    cases hv : srFtf s.params.sr v
    · simpa [hv] using Arc.wrWait hq hv
    · simpa [hv, hq, pollNext] using Arc.wrReady hq hv
  case wrDrain =>
    cases hv : srTcf s.params.sr v
    · simpa [hv] using Arc.drainWait hq hv
    · simpa [hv, hq, pollNext] using Arc.drained hq hv
  all_goals simp [hq, Seq.polling] at hp

/-- The last write of the configuration is an arc to where `D.OP` sends the request (R120, R121). -/
theorem arc_of_cfgAr {s : State} (hq : s.seq = .cfgAr) : Arc s (afterConfig s.d.op) [.wr .ar (.word (ar s.d))] := by
  cases hop : s.d.op
  case cmd => exact .arCmd hq hop
  case read => exact .arRead hq hop
  case write => exact .arWrite hq hop
  case map => exact .arMap hq hop

/-- Where a byte step below the length goes: it is the last one or not (R124, R126, R131). -/
theorem State.advance_seq_cases {s : State} (hlt : s.idx.toNat < s.len.toNat) (more done : Seq) :
    (s.idx.toNat + 1 < s.len.toNat ∧ (s.advance more done).seq = more) ∨
    (s.idx.toNat + 1 = s.len.toNat ∧ (s.advance more done).seq = done) := by
  rw [State.advance_seq]
  split
  · next hlast => exact .inr ⟨(State.idx_succ_eq_len hlt).1 hlast, rfl⟩
  · next hmore =>
    rw [State.idx_succ_eq_len hlt] at hmore
    exact .inl ⟨by omega, rfl⟩

/-- Every access served is one arc, and adds that arc's events. -/
theorem arc_of_served {s : State} (hs : s.Inv) (hf : s.seq.inFlight = true) :
    ∃ es, Arc s s.served.seq es ∧ s.served.trace = s.trace ++ es := by
  have hmoving := hs.idx_lt
  unfold State.served
  cases hq : s.seq <;> rw [hq] at hf hmoving
  case busywait | cmdWait | rdPoll | wrPoll | wrDrain =>
    exact ⟨_, arc_of_polling (by rw [hq]; rfl) s.srAnswer, rfl⟩
  case lenprog =>
    by_cases hlen : s.len = 0
    · simp only [if_pos hlen]
      exact ⟨[], .zeroLength hq hlen, by simp⟩
    · simp only [if_neg hlen]
      exact ⟨_, .length hq hlen, rfl⟩
  case cfgAbr => exact ⟨_, .abr hq, rfl⟩
  case cfgCcr => exact ⟨_, .ccr hq, rfl⟩
  case cfgAr => exact ⟨_, arc_of_cfgAr hq, rfl⟩
  case rdPop =>
    refine ⟨[.rd .dr (.byte s.drAnswer)], ?_, rfl⟩
    dsimp only
    rcases State.advance_seq_cases (s := s.stored) (hmoving rfl) .rdPoll .dataComplete with ⟨h, hseq⟩ | ⟨h, hseq⟩
    · rw [hseq]
      exact .rdMore hq h
    · rw [hseq]
      exact .rdLast hq h
  case wrPush =>
    refine ⟨[.wr .dr (.byte s.nextByte)], ?_, rfl⟩
    dsimp only
    rcases State.advance_seq_cases (s := s.regWriteDr s.nextByte) (hmoving rfl) .wrPoll .wrDrain with
      ⟨h, hseq⟩ | ⟨h, hseq⟩
    · rw [hseq]
      exact .wrMore hq h
    · rw [hseq]
      exact .wrLast hq h
  all_goals cases hf

/-- Settles O45: the accepting states stay or accept, and an access in flight is an arc. -/
theorem everyStepIsAnArcOfTheTransitionTable : Obligations.EveryStepIsAnArcOfTheTransitionTable := by
  unfold Obligations.EveryStepIsAnArcOfTheTransitionTable
  intro s t hs hr h
  rcases step_cases h with ⟨hr', -⟩ | ⟨-, ha, hno, rfl⟩ | ⟨-, ha, o, rest, i, hp, hd, -⟩ | ⟨-, hf, -⟩
  · simp [hr] at hr'
  · exact ⟨[], .stay ha hno, by simp⟩
  · obtain ⟨d, -, -, hstep⟩ := step_accepts hd
    rw [hstep s rest hr ha hp] at h
    cases h
    exact ⟨[], .accept ha ⟨o, rest, i, hp, hd⟩, by simp⟩
  · rw [hs.step_eq_served hr hf] at h
    cases h
    exact arc_of_served hs hf

end Sys2Proof.Machine
end

section
/-! SUPPORT. Waiting (spec 42_executor_sequencer.md R132): the state after any number of fruitless reads of SR. -/

namespace Sys2Proof.Machine

open Sys2Proof

/-- The state after the next `k` reads of SR and nothing else. -/
def State.waited (k : Nat) (s : State) : State :=
  { s with
    srScript := s.srScript.drop k, srCount := s.srCount + k
    trace := s.trace ++ (List.range k).map (fun n => srRead (s.srAnswerAt n)) }

theorem State.waited_zero (s : State) : s.waited 0 = s := by simp [State.waited]

theorem State.srAnswer_waited (s : State) (k : Nat) : (s.waited k).srAnswer = s.srAnswerAt k := by
  simp [State.srAnswer, State.srAnswerAt, State.waited]

theorem State.afterSrRead_waited (s : State) (k : Nat) : (s.waited k).afterSrRead = s.waited (k + 1) := by
  simp only [State.afterSrRead, State.srAnswer_waited]
  simp [State.waited, State.emit, srRead, List.range_succ, Nat.add_assoc]

/-- A polling state makes one poll iteration in a step. -/
theorem step_of_polling {s : State} (hr : s.resetIn = false) (hp : s.seq.polling = true) :
    step s = .next (s.poll (pollNext s)) :=
  (step_inFlight hr (issued_rdSr_iff.2 hp)).trans (exec_rdSr_of_polling hp)

/-- A value that does not end the poll leaves `SEQ` as it is. -/
theorem State.poll_of_not_ends {s : State} (h : pollEnds s.params.sr s.seq s.srAnswer = false) (next : Seq) :
    s.poll next = s.afterSrRead := by
  rw [State.poll, h]
  rfl

/-- As long as the answers do not end the poll, the block only reads them (R132). -/
theorem Reaches.waited {s : State} (hr : s.resetIn = false) (hp : s.seq.polling = true) {k : Nat}
    (hwait : ∀ n < k, pollEnds s.params.sr s.seq (s.srAnswerAt n) = false) : Reaches s (s.waited k) := by
  induction k with
  | zero =>
    rw [State.waited_zero]
    exact .refl
  | succ k ih =>
    have hends : pollEnds (s.waited k).params.sr (s.waited k).seq (s.waited k).srAnswer = false :=
      s.srAnswer_waited k ▸ hwait k (Nat.lt_succ_self k)
    refine .step (ih fun n hn => hwait n (Nat.lt_succ_of_lt hn)) ?_
    rw [step_of_polling (s := s.waited k) hr hp, State.poll_of_not_ends hends, State.afterSrRead_waited]

/-- Settles O56: `State.waited` differs in the reads alone. -/
theorem waitingIsUnbounded : Obligations.WaitingIsUnbounded := by
  unfold Obligations.WaitingIsUnbounded
  exact fun s k hr hp hwait => ⟨s.waited k, .waited hr hp hwait, rfl, rfl, rfl⟩

end Sys2Proof.Machine
end

section
/-! SUPPORT. The run of one request (spec 42_executor_sequencer.md R133): what stays as it is along a run that no reset and no
other offer disturbs, the trace up to the last configuration write, which the four request kinds share, and the trace of a
CMD. -/

namespace Sys2Proof.Machine

open Sys2Proof

/-! ### Undisturbed runs -/

theorem State.served_params (s : State) : s.served.params = s.params := by
  cases hq : s.seq <;> simp [State.served, hq, apply_ite State.params]

theorem State.served_resetIn (s : State) : s.served.resetIn = s.resetIn := by
  cases hq : s.seq <;> simp [State.served, hq, apply_ite State.resetIn]

/-- What holds of each state `t` of a run from `s` with no reset and no other offer. -/
structure Undisturbed (s t : State) : Prop where
  inv : t.Inv
  resetIn : t.resetIn = false
  port : t.port = []
  params : t.params = s.params
  d : t.d = s.d
  len : t.len = s.len

theorem Undisturbed.served {s t : State} (h : Undisturbed s t) : Undisturbed s t.served where
  inv := h.inv.served
  resetIn := t.served_resetIn.trans h.resetIn
  port := t.served_port.trans h.port
  params := t.served_params.trans h.params
  d := t.served_d.trans h.d
  len := t.served_len.trans h.len

/-- A step of an undisturbed run serves the access in flight, or stays in an accepting state. -/
theorem Undisturbed.step_cases {s t u : State} (h : Undisturbed s t) (hstep : step t = .next u) :
    u = t ∨ t.seq.inFlight = true ∧ u = t.served := by
  rcases Seq.class_cases t.seq with ha | hf | hq
  · rw [step_of_no_request h.resetIn ha (not_requestOffered_of_nil h.port)] at hstep
    cases hstep
    exact .inl rfl
  · rw [h.inv.step_eq_served h.resetIn hf] at hstep
    cases hstep
    exact .inr ⟨hf, rfl⟩
  · rw [step_of_faulted h.resetIn hq] at hstep
    cases hstep

section

variable {s t : State} (hs : s.Inv) (hr : s.resetIn = false) (hp : s.port = []) (h : Reaches s t)

include hs hr hp h

/-- The induction along an undisturbed run: what every access served keeps holds at its end. -/
theorem Reaches.induction_served {P : State → Prop} (hstart : P s)
    (hserved : ∀ u, Undisturbed s u → u.seq.inFlight = true → P u → P u.served) : Undisturbed s t ∧ P t := by
  induction h with
  | refl => exact ⟨⟨hs, hr, hp, rfl, rfl, rfl⟩, hstart⟩
  | step _ hstep ih =>
    obtain ⟨hu, hP⟩ := ih
    rcases hu.step_cases hstep with rfl | ⟨hf, rfl⟩
    · exact ⟨hu, hP⟩
    · exact ⟨hu.served, hserved _ hu hf hP⟩

/-- The same for a property `T` of `SEQ` and the accesses made since the start. -/
theorem Reaches.trace_induction {T : Seq → List Event → Prop} (hstart : T s.seq [])
    (hserved : ∀ u w, Undisturbed s u → u.seq.inFlight = true → T u.seq w →
      ∃ es, T u.served.seq (w ++ es) ∧ u.served.trace = u.trace ++ es) :
    ∃ w, T t.seq w ∧ t.trace = s.trace ++ w := by
  refine (Reaches.induction_served hs hr hp h (P := fun u => ∃ w, T u.seq w ∧ u.trace = s.trace ++ w)
    ⟨[], hstart, by simp⟩ ?_).2
  rintro u hu hf ⟨w, hw, htrace⟩
  obtain ⟨es, hes, htrace'⟩ := hserved u w hu hf hw
  exact ⟨w ++ es, hes, by rw [htrace', htrace, List.append_assoc]⟩

/-- Only a READ writes BUF (R53, R61). -/
theorem Reaches.buf_of_not_read (hop : s.d.op ≠ .read) : t.buf = s.buf := by
  refine (Reaches.induction_served hs hr hp h (P := fun u => u.buf = s.buf) rfl fun u hu _ hbuf => ?_).2
  have hq : u.seq ≠ .rdPop := fun hq => hop (by simpa [hq, Seq.runs, hu.d] using hu.inv.seq_op)
  rw [State.served_buf, if_neg hq, hbuf]

end

/-! ### A poll that goes on -/

/-- Reads of SR that do not end the poll of state `q`. -/
def fruitless (l : Config.SrLayout) (q : Seq) (t : List Event) : Prop :=
  ∃ waits : List Word, (∀ v ∈ waits, pollEnds l q v = false) ∧ t = waits.map srRead

theorem fruitless_nil (l : Config.SrLayout) (q : Seq) : fruitless l q [] := ⟨[], nofun, rfl⟩

theorem fruitless.snoc {l : Config.SrLayout} {q : Seq} {t : List Event} {v : Word} (h : fruitless l q t)
    (hv : pollEnds l q v = false) : fruitless l q (t ++ [srRead v]) := by
  obtain ⟨waits, hwaits, rfl⟩ := h
  refine ⟨waits ++ [v], fun x hx => ?_, by simp⟩
  rcases List.mem_append.1 hx with hx | hx
  · exact hwaits x hx
  · rwa [List.mem_singleton.1 hx]

theorem fruitless.flagWait {l : Config.SrLayout} {q : Seq} {t : List Event} {v : Word} (h : fruitless l q t)
    (hv : pollEnds l q v = true) : flagWait l q (t ++ [srRead v]) := by
  obtain ⟨waits, hwaits, rfl⟩ := h
  exact ⟨waits, v, hwaits, hv, rfl⟩

/-! ### Up to the last configuration write -/

/-- The write of DLR, which a READ and a WRITE make (R116, R117). -/
def lengthTrace (d : Latch) (len : Word) : List Event :=
  match d.op with
  | .read | .write => [.wr .dlr (.word (len - 1))]
  | .cmd | .map => []

/-- LENPROG is a state of a READ or a WRITE, so the write that it makes is theirs. -/
theorem lengthTrace_of_lenprog {d : Latch} (h : Seq.lenprog.runs d.op = true) (len : Word) :
    lengthTrace d len = [.wr .dlr (.word (dlr len))] := by
  cases hop : d.op with
  | read | write => simp only [lengthTrace, hop, dlr]
  | cmd | map => simp [hop, Seq.runs] at h

/-- The busy-wait, the write of DLR where there is one, and the first `n` of the three configuration writes (R133). -/
def configuredTrace (p : Config.Params) (d : Latch) (len : Word) (n : Nat) (t : List Event) : Prop :=
  ∃ busy, flagWait p.sr .busywait busy ∧ t = busy ++ lengthTrace d len ++ (configTrace p.ccr d).take n

/-- The accesses since BUSYWAIT was entered, in each state up to the one that CFG_AR leads to. -/
def headTrace (p : Config.Params) (d : Latch) (len : Word) (q : Seq) (t : List Event) : Prop :=
  match q with
  | .busywait => fruitless p.sr .busywait t
  | .lenprog | .faulted => flagWait p.sr .busywait t
  | .cfgAbr => configuredTrace p d len 0 t
  | .cfgCcr => configuredTrace p d len 1 t
  | .cfgAr => configuredTrace p d len 2 t
  | .cmdWait | .rdPoll | .wrPoll | .mappedActive => configuredTrace p d len 3 t
  | .idle | .rdPop | .wrPush | .wrDrain | .cmdComplete | .dataComplete => False

section

variable {p : Config.Params} {d : Latch} {len : Word} {t : List Event}

/-- The configuration write that comes next. -/
theorem configuredTrace.snoc {n : Nat} {e : Event} (h : configuredTrace p d len n t)
    (he : (configTrace p.ccr d)[n]? = some e) : configuredTrace p d len (n + 1) (t ++ [e]) := by
  obtain ⟨busy, hbusy, rfl⟩ := h
  exact ⟨busy, hbusy, by simp [List.take_add_one, he]⟩

theorem headTrace_afterBusy (h : flagWait p.sr .busywait t) : headTrace p d len (afterBusy d.op) t := by
  cases hop : d.op with
  | read | write => exact h
  | cmd | map => exact ⟨t, h, by simp [lengthTrace, hop]⟩

theorem headTrace_afterConfig (h : configuredTrace p d len 3 t) : headTrace p d len (afterConfig d.op) t := by
  cases d.op <;> exact h

end

/-- Every access before the completion phase adds to the trace what `headTrace` says. -/
theorem headTrace_served {s : State} {w : List Event} (hs : s.Inv) (hq : s.seq.beforeData = true)
    (h : headTrace s.params s.d s.len s.seq w) :
    ∃ es, headTrace s.params s.d s.len s.served.seq (w ++ es) ∧ s.served.trace = s.trace ++ es := by
  have hop := hs.seq_op
  unfold State.served
  cases hseq : s.seq <;> rw [hseq] at hq hop h
  case busywait =>
    refine ⟨[srRead s.srAnswer], ?_, rfl⟩
    cases hends : pollEnds s.params.sr .busywait s.srAnswer with
    | true => simpa [hseq, hends, pollNext] using headTrace_afterBusy (fruitless.flagWait h hends)
    | false =>
      rw [State.poll_seq, hseq, hends]
      exact fruitless.snoc h hends
  case lenprog =>
    by_cases hlen : s.len = 0
    · simp only [if_pos hlen]
      exact ⟨[], by rwa [List.append_nil], by simp⟩
    · simp only [if_neg hlen]
      exact ⟨[.wr .dlr (.word (dlr s.len))], ⟨w, h, by simp [lengthTrace_of_lenprog hop]⟩, rfl⟩
  case cfgAbr => exact ⟨_, configuredTrace.snoc h rfl, rfl⟩
  case cfgCcr => exact ⟨_, configuredTrace.snoc h rfl, rfl⟩
  case cfgAr => exact ⟨_, headTrace_afterConfig (configuredTrace.snoc h rfl), rfl⟩
  case faulted => exact ⟨[], by rwa [List.append_nil, hseq], by simp⟩
  all_goals cases hq

/-! ### A CMD -/

/-- The accesses of a CMD since BUSYWAIT was entered, in each state of its run. -/
def commandTrace (p : Config.Params) (d : Latch) (len : Word) (q : Seq) (t : List Event) : Prop :=
  match q with
  | .cmdWait => ∃ head wait, headTrace p d len .cmdWait head ∧ fruitless p.sr .cmdWait wait ∧ t = head ++ wait
  | .cmdComplete => cmdTrace p d t
  | q => headTrace p d len q t

theorem commandTrace_of_headTrace {p : Config.Params} {d : Latch} {len : Word} {q : Seq} {t : List Event}
    (h : headTrace p d len q t) : commandTrace p d len q t := by
  cases q
  case cmdWait => exact ⟨t, [], h, fruitless_nil _ _, by simp⟩
  case cmdComplete => exact h.elim
  all_goals exact h

theorem headTrace_of_commandTrace {p : Config.Params} {d : Latch} {len : Word} {q : Seq} {t : List Event}
    (hq : q.beforeData = true) (h : commandTrace p d len q t) : headTrace p d len q t := by
  cases q
  case busywait | lenprog | cfgAbr | cfgCcr | cfgAr | faulted => exact h
  all_goals cases hq

theorem cmdTrace_of_configured {p : Config.Params} {d : Latch} {len : Word} {head wait : List Event}
    (hop : d.op = .cmd) (hhead : configuredTrace p d len 3 head) (hwait : flagWait p.sr .cmdWait wait) :
    cmdTrace p d (head ++ wait) := by
  obtain ⟨busy, hbusy, rfl⟩ := hhead
  exact ⟨busy, wait, hbusy, hwait, by simp [lengthTrace, hop, configTrace]⟩

/-- The states in flight of a CMD are those before the completion phase, and CMD_WAIT. -/
theorem Seq.beforeData_or_cmdWait {q : Seq} (hf : q.inFlight = true) (hruns : q.runs .cmd = true) :
    q.beforeData = true ∨ q = .cmdWait := by
  revert hf hruns
  cases q <;> decide

theorem commandTrace_served {s : State} {w : List Event} (hs : s.Inv) (hf : s.seq.inFlight = true) (hop : s.d.op = .cmd)
    (h : commandTrace s.params s.d s.len s.seq w) :
    ∃ es, commandTrace s.params s.d s.len s.served.seq (w ++ es) ∧ s.served.trace = s.trace ++ es := by
  rcases Seq.beforeData_or_cmdWait hf (hop ▸ hs.seq_op) with hq | hq
  · obtain ⟨es, hes, htrace⟩ := headTrace_served hs hq (headTrace_of_commandTrace hq h)
    exact ⟨es, commandTrace_of_headTrace hes, htrace⟩
  · rw [hq] at h
    obtain ⟨head, wait, hhead, hwait, rfl⟩ := h
    have hserved : s.served = s.poll .cmdComplete := by simp [State.served, hq, pollNext]
    rw [hserved, State.poll_seq, hq]
    refine ⟨[srRead s.srAnswer], ?_, rfl⟩
    rw [List.append_assoc]
    cases hends : pollEnds s.params.sr .cmdWait s.srAnswer with
    | true => exact cmdTrace_of_configured hop hhead (hwait.flagWait hends)
    | false => exact ⟨head, _, hhead, hwait.snoc hends, rfl⟩

/-- Settles O50: `commandTrace` along the run, read at CMD_COMPLETE. -/
theorem completedCommandHasItsTrace : Obligations.CompletedCommandHasItsTrace := by
  unfold Obligations.CompletedCommandHasItsTrace
  intro s t hs hq hop hp hr h hend
  obtain ⟨w, hw, htrace⟩ := Reaches.trace_induction (T := commandTrace s.params s.d s.len) hs hr hp h
    (by rw [hq]; exact fruitless_nil _ _) fun u w hu hf hw => by
      rw [← hu.params, ← hu.d, ← hu.len] at hw ⊢
      exact commandTrace_served hu.inv hf (hu.d ▸ hop) hw
  rw [hend] at hw
  exact ⟨Reaches.buf_of_not_read hs hr hp h (by simp [hop]), w, hw, htrace⟩

end Sys2Proof.Machine
end

section
/-! SUPPORT. Runs under listed answers of SR (spec 70_reset_and_hazards.md R195): a poll ends at the first listed answer that
ends it and leaves the list behind it, the configuration writes read nothing, and so a CMD and a MAP reach their ends. -/

namespace Sys2Proof.Machine

open Sys2Proof

/-! ### A poll over listed answers -/

/-- The state after `k` fruitless reads of SR and the poll iteration that follows them. -/
def State.polled (k : Nat) (s : State) : State := (s.waited k).poll (pollNext s)

@[simp] theorem State.polled_d (k : Nat) (s : State) : (s.polled k).d = s.d := rfl
@[simp] theorem State.polled_resetIn (k : Nat) (s : State) : (s.polled k).resetIn = s.resetIn := rfl

@[simp] theorem State.polled_srScript (k : Nat) (s : State) : (s.polled k).srScript = s.srScript.drop (k + 1) :=
  List.tail_drop

/-- The poll ends where the answer after the `k` fruitless ones ends it. -/
theorem State.polled_seq {s : State} {k : Nat} (hends : pollEnds s.params.sr s.seq (s.srAnswerAt k) = true) :
    (s.polled k).seq = pollNext s := by
  rw [← State.srAnswer_waited] at hends
  exact if_pos hends

theorem Reaches.polled {s : State} (hr : s.resetIn = false) (hp : s.seq.polling = true) {k : Nat}
    (hwait : ∀ n < k, pollEnds s.params.sr s.seq (s.srAnswerAt n) = false) : Reaches s (s.polled k) :=
  .step (.waited hr hp hwait) (step_of_polling (s := s.waited k) hr hp)

/-- The coming reads of SR are answered from the list, in order (R59). -/
theorem State.srAnswerAt_of_getElem? {s : State} {n : Nat} {v : Word} (h : s.srScript[n]? = some v) :
    s.srAnswerAt n = v := by
  rw [State.srAnswerAt, h, Option.getD_some]

/-- Any listed answers that do not end the poll, then one that does: the poll is left, and only these are used up (R195). -/
theorem Reaches.polled_of_script {s : State} {waits rest : List Word} {last : Word} (hr : s.resetIn = false)
    (hp : s.seq.polling = true) (hwaits : ∀ v ∈ waits, pollEnds s.params.sr s.seq v = false)
    (hlast : pollEnds s.params.sr s.seq last = true) (hscript : s.srScript = waits ++ last :: rest) :
    Reaches s (s.polled waits.length) ∧ (s.polled waits.length).seq = pollNext s ∧
      (s.polled waits.length).srScript = rest := by
  have hwait (n : Nat) (hn : n < waits.length) : s.srAnswerAt n = waits[n] :=
    State.srAnswerAt_of_getElem? (by rw [hscript, List.getElem?_append_left hn, List.getElem?_eq_getElem hn])
  have hend : s.srAnswerAt waits.length = last := State.srAnswerAt_of_getElem? (by simp [hscript])
  refine ⟨.polled hr hp fun n hn => ?_, State.polled_seq (hend ▸ hlast), by simp [hscript]⟩
  rw [hwait n hn]
  exact hwaits _ (List.getElem_mem hn)

/-! ### The three configuration writes (R118 to R120) -/

/-- Only a poll uses up an answer of SR (R42, R48). -/
theorem State.served_srScript (s : State) :
    s.served.srScript = if s.seq.polling then s.srScript.tail else s.srScript := by
  cases hq : s.seq <;> simp [State.served, Seq.polling, hq, apply_ite State.srScript]

theorem State.served_seq_of_cfgAbr {s : State} (hq : s.seq = .cfgAbr) : s.served.seq = .cfgCcr := by
  simp [State.served, hq]

theorem State.served_seq_of_cfgCcr {s : State} (hq : s.seq = .cfgCcr) : s.served.seq = .cfgAr := by
  simp [State.served, hq]

theorem State.served_seq_of_cfgAr {s : State} (hq : s.seq = .cfgAr) : s.served.seq = afterConfig s.d.op := by
  simp [State.served, hq]

/-- A configuration write completes in every state that issues it. -/
theorem step_of_configuring {s : State} (hr : s.resetIn = false) (hc : s.seq.configuring = true) :
    step s = .next s.served := by
  cases hq : s.seq <;> rw [hq] at hc
  case cfgAbr | cfgCcr | cfgAr => simp [step_eq_served hr, hq, Seq.inFlight]
  all_goals cases hc

/-- The state after the writes of ABR, CCR and AR. -/
def State.configured (s : State) : State := s.served.served.served

theorem State.configured_resetIn (s : State) : s.configured.resetIn = s.resetIn := by
  simp only [State.configured, State.served_resetIn]

section

variable {s : State} (hq : s.seq = .cfgAbr)

include hq

theorem State.configured_seq : s.configured.seq = afterConfig s.d.op := by
  have hccr := State.served_seq_of_cfgAbr hq
  rw [State.configured, State.served_seq_of_cfgAr (State.served_seq_of_cfgCcr hccr), State.served_d, State.served_d]

theorem State.configured_srScript : s.configured.srScript = s.srScript := by
  have hccr := State.served_seq_of_cfgAbr hq
  have har := State.served_seq_of_cfgCcr hccr
  simp [State.configured, State.served_srScript, Seq.polling, hq, hccr, har]

theorem Reaches.configured (hr : s.resetIn = false) : Reaches s s.configured := by
  have hccr := State.served_seq_of_cfgAbr hq
  have har := State.served_seq_of_cfgCcr hccr
  have hreach : Reaches s s.served := .step .refl (step_of_configuring hr (by rw [hq]; rfl))
  have hreach' : Reaches s s.served.served :=
    .step hreach (step_of_configuring (s.served_resetIn.trans hr) (by rw [hccr]; rfl))
  exact .step hreach' (step_of_configuring (by simp only [State.served_resetIn, hr]) (by rw [har]; rfl))

end

/-! ### A CMD and a MAP -/

/-- A request without a length is configured after its busy-wait (R116, R118 to R121), with no read of SR but those. -/
theorem exists_configured_of_script {s : State} {waits rest : List Word} {clear : Word} (hr : s.resetIn = false)
    (hq : s.seq = .busywait) (hop : afterBusy s.d.op = .cfgAbr) (hwaits : ∀ v ∈ waits, srBusy s.params.sr v = true)
    (hclear : srBusy s.params.sr clear = false) (hscript : s.srScript = waits ++ clear :: rest) :
    ∃ t, Reaches s t ∧ t.resetIn = false ∧ t.seq = afterConfig s.d.op ∧ t.srScript = rest := by
  obtain ⟨hreach, hseq, hrest⟩ := Reaches.polled_of_script hr (by rw [hq]; rfl)
    (fun v hv => by simp [hq, hwaits v hv]) (by simp [hq, hclear]) hscript
  have hcfg : (s.polled waits.length).seq = .cfgAbr := by rw [hseq, pollNext, hq, hop]
  exact ⟨_, hreach.trans (.configured hcfg (by rw [State.polled_resetIn, hr])),
    by rw [State.configured_resetIn, State.polled_resetIn, hr], by rw [State.configured_seq hcfg, State.polled_d],
    by rw [State.configured_srScript hcfg, hrest]⟩

/-- Settles O59: the busy-wait, the configuration, and for a CMD the wait for TCF, each over its part of the answers. -/
theorem commandAndMapReachTheirEnds : Obligations.CommandAndMapReachTheirEnds := by
  unfold Obligations.CommandAndMapReachTheirEnds
  refine ⟨?cmd, ?map⟩
  case cmd =>
    intro s waits clear poll done sr _ hr hq hop hwaits hclear hpoll hdone hscript
    obtain ⟨t, hreach, hrt, hqt, hrest⟩ := exists_configured_of_script (rest := poll ++ done :: sr) hr hq
      (by rw [hop]; rfl) hwaits hclear (by simp [hscript])
    have hwait : t.seq = .cmdWait := by rw [hqt, hop, afterConfig]
    rw [← hreach.params] at hpoll hdone
    obtain ⟨hreach', hseq, hsr⟩ := Reaches.polled_of_script hrt (by rw [hwait]; rfl)
      (by rwa [hwait]) (by rwa [hwait]) hrest
    exact ⟨_, hreach.trans hreach', by rw [hseq, pollNext, hwait], hsr⟩
  case map =>
    intro s waits clear sr _ hr hq hop hwaits hclear hscript
    obtain ⟨t, hreach, -, hqt, hrest⟩ := exists_configured_of_script (rest := sr) hr hq
      (by rw [hop]; rfl) hwaits hclear (by simp [hscript])
    exact ⟨t, hreach, by rw [hqt, hop, afterConfig], hrest⟩

end Sys2Proof.Machine
end

section
/-! SUPPORT. The bytes of a READ (spec 44_op_read.md R141; 42_executor_sequencer.md R133; 20_memory.md R53): along its run the
accesses since BUSYWAIT was entered have the form that `SEQ` and the bytes stored so far fix, and BUF changes below LEN only. -/

namespace Sys2Proof.Machine

open Sys2Proof

/-! ### The trace of a payload in transfer -/

/-- The accesses up to the write of AR, the streaming part that meets `data`, and then the reads of SR that meet `wait`. -/
def transferTrace (p : Config.Params) (d : Latch) (len : Word) (data wait : List Event → Prop) (t : List Event) : Prop :=
  ∃ head bytes polls, configuredTrace p d len 3 head ∧ data bytes ∧ wait polls ∧ t = head ++ bytes ++ polls

section

variable {p : Config.Params} {d : Latch} {len : Word} {data data' wait wait' : List Event → Prop} {t es : List Event}

theorem transferTrace_of_configured (h : configuredTrace p d len 3 t) (hdata : data []) (hwait : wait []) :
    transferTrace p d len data wait t :=
  ⟨t, [], [], h, hdata, hwait, by simp⟩

/-- One more read of SR in the wait for the next byte. -/
theorem transferTrace.poll (h : transferTrace p d len data wait t) (hpoll : ∀ w, wait w → wait' (w ++ es)) :
    transferTrace p d len data wait' (t ++ es) := by
  obtain ⟨head, bytes, polls, hhead, hdata, hwait, rfl⟩ := h
  exact ⟨head, bytes, polls ++ es, hhead, hdata, hpoll polls hwait, by simp⟩

/-- The access of the byte joins the wait before it to the streaming part, and the next wait begins. -/
theorem transferTrace.byte (h : transferTrace p d len data wait t) (hbyte : ∀ x w, data x → wait w → data' (x ++ w ++ es))
    (hnil : wait' []) : transferTrace p d len data' wait' (t ++ es) := by
  obtain ⟨head, bytes, polls, hhead, hdata, hwait, rfl⟩ := h
  exact ⟨head, bytes ++ polls ++ es, [], hhead, hbyte bytes polls hdata hwait, hnil, by simp⟩

end

/-! ### The trace of a READ -/

/-- The accesses of a READ that has stored `bytes`, in each state of its run. -/
def readRunTrace (p : Config.Params) (d : Latch) (len : Word) (bytes : List Byte) (q : Seq) (t : List Event) : Prop :=
  match q with
  | .rdPoll => transferTrace p d len (readData p.sr bytes) (fruitless p.sr .rdPoll) t
  | .rdPop => transferTrace p d len (readData p.sr bytes) (flagWait p.sr .rdPoll) t
  | .dataComplete => transferTrace p d len (readData p.sr bytes) (· = []) t
  | q => headTrace p d len q t

section

variable {p : Config.Params} {d : Latch} {len : Word} {bytes : List Byte} {q : Seq} {t : List Event}

theorem readRunTrace_of_headTrace (h : headTrace p d len q t) : readRunTrace p d len [] q t := by
  cases q
  case rdPoll => exact transferTrace_of_configured h rfl (fruitless_nil _ _)
  case rdPop | dataComplete => exact h.elim
  all_goals exact h

theorem headTrace_of_readRunTrace (hq : q.beforeData = true) (h : readRunTrace p d len bytes q t) :
    headTrace p d len q t := by
  cases q
  case busywait | lenprog | cfgAbr | cfgCcr | cfgAr | faulted => exact h
  all_goals cases hq

theorem readTrace_of_transferTrace (hop : d.op = .read)
    (h : transferTrace p d len (readData p.sr bytes) (· = []) t) : readTrace p d len bytes t := by
  obtain ⟨_, data, _, ⟨busy, hbusy, rfl⟩, hdata, rfl, rfl⟩ := h
  exact ⟨busy, data, hbusy, hdata, by simp [lengthTrace, hop, configTrace]⟩

end

/-- The states in flight of a READ are those before the completion phase, RD_POLL and RD_POP. -/
theorem Seq.beforeData_or_reading {q : Seq} (hf : q.inFlight = true) (hruns : q.runs .read = true) :
    q.beforeData = true ∨ q = .rdPoll ∨ q = .rdPop := by
  revert hf hruns
  cases q <;> decide

theorem Seq.ne_byteStep_of_beforeData {q : Seq} (hq : q.beforeData = true) : q ≠ .rdPop ∧ q ≠ .wrPush := by
  revert hq
  cases q <;> decide

/-! ### The accesses of a READ, served -/

section

variable {s : State} {w : List Event}

theorem State.served_of_rdPop (hq : s.seq = .rdPop) : s.served = s.stored.advance .rdPoll .dataComplete := by
  simp [State.served, hq]

/-- Outside the two byte steps `IDX` stays. -/
theorem State.served_idx_of_ne (hpop : s.seq ≠ .rdPop) (hpush : s.seq ≠ .wrPush) : s.served.idx = s.idx :=
  s.served_idx.resolve_right fun h => h.1.elim hpop hpush

/-- The byte read of RD_POP appends its byte to the stored ones (R124). -/
theorem bufBytes_served_of_rdPop (hs : s.Inv) (hq : s.seq = .rdPop) :
    s.served.idx.toNat = s.idx.toNat + 1 ∧
      bufBytes s.served.buf s.served.idx.toNat = bufBytes s.buf s.idx.toNat ++ [s.drAnswer] := by
  have hidx : s.served.idx.toNat = s.idx.toNat + 1 := by
    rw [State.served_of_rdPop hq]
    exact State.idx_succ_toNat (hs.idx_lt (by rw [hq]; rfl))
  refine ⟨hidx, ?_⟩
  rw [hidx, State.served_buf, if_pos hq, bufBytes_write hs.buf_wf]

theorem readRunTrace_served (hs : s.Inv) (hf : s.seq.inFlight = true) (hop : s.d.op = .read)
    (h : readRunTrace s.params s.d s.len (bufBytes s.buf s.idx.toNat) s.seq w) :
    ∃ es, readRunTrace s.params s.d s.len (bufBytes s.served.buf s.served.idx.toNat) s.served.seq (w ++ es) ∧
      s.served.trace = s.trace ++ es := by
  rcases Seq.beforeData_or_reading hf (hop ▸ hs.seq_op) with hq | hq | hq
  · obtain ⟨es, hes, htrace⟩ := headTrace_served hs hq (headTrace_of_readRunTrace hq h)
    have hidx : s.served.idx = 0 := by
      obtain ⟨hpop, hpush⟩ := Seq.ne_byteStep_of_beforeData hq
      rw [State.served_idx_of_ne hpop hpush, hs.idx_zero hq]
    rw [hidx]
    exact ⟨es, readRunTrace_of_headTrace hes, htrace⟩
  · rw [hq] at h
    have hserved : s.served = s.poll .rdPop := by simp [State.served, hq, pollNext]
    rw [hserved, State.poll_seq, hq]
    refine ⟨[srRead s.srAnswer], ?_, rfl⟩
    cases hends : pollEnds s.params.sr .rdPoll s.srAnswer with
    | true => exact transferTrace.poll h fun _ hw => hw.flagWait hends
    | false => exact transferTrace.poll h fun _ hw => hw.snoc hends
  · rw [hq] at h
    obtain ⟨-, hbytes⟩ := bufBytes_served_of_rdPop hs hq
    rw [hbytes, State.served_of_rdPop hq, State.advance_seq]
    refine ⟨[.rd .dr (.byte s.drAnswer)], ?_, rfl⟩
    split
    · exact transferTrace.byte h (fun _ _ => readData_snoc) rfl
    · exact transferTrace.byte h (fun _ _ => readData_snoc) (fruitless_nil _ _)

end

/-! ### The statement -/

section

variable {s t : State} (hs : s.Inv) (hr : s.resetIn = false) (hp : s.port = []) (h : Reaches s t)

include hs hr hp h

/-- No byte of BUF from LEN on is written (R53). -/
theorem Reaches.read_buf_of_len_le {a : Nat} (ha : s.len.toNat ≤ a) : Memory.read t.buf a = Memory.read s.buf a := by
  refine (Reaches.induction_served hs hr hp h (P := fun u => Memory.read u.buf a = Memory.read s.buf a) rfl
    fun u hu _ hread => ?_).2
  rw [State.served_buf]
  split
  · next hq =>
    have hlt : u.idx.toNat < u.len.toNat := hu.inv.idx_lt (by rw [hq]; rfl)
    rw [hu.len] at hlt
    rw [Memory.read_write hu.inv.buf_wf, if_neg (by omega), hread]
  · exact hread

/-- `readRunTrace` along an undisturbed run of a READ from BUSYWAIT. -/
theorem Reaches.trace_of_read (hq : s.seq = .busywait) (hop : s.d.op = .read) :
    Undisturbed s t ∧
      ∃ w, readRunTrace s.params s.d s.len (bufBytes t.buf t.idx.toNat) t.seq w ∧ t.trace = s.trace ++ w := by
  refine Reaches.induction_served hs hr hp h (P := fun u => ∃ w, readRunTrace s.params s.d s.len
    (bufBytes u.buf u.idx.toNat) u.seq w ∧ u.trace = s.trace ++ w) ⟨[], ?_, by simp⟩ ?_
  · rw [hq]
    exact fruitless_nil _ _
  · rintro u hu hf ⟨w, hw, htrace⟩
    rw [← hu.params, ← hu.d, ← hu.len] at hw ⊢
    obtain ⟨es, hes, htrace'⟩ := readRunTrace_served hu.inv hf (hu.d ▸ hop) hw
    exact ⟨w ++ es, hes, by rw [htrace', htrace, List.append_assoc]⟩

end

/-- Settles O51: `readRunTrace` along the run, read at DATA_COMPLETE, where IDX is LEN. -/
theorem completedReadFillsTheBuffer : Obligations.CompletedReadFillsTheBuffer := by
  unfold Obligations.CompletedReadFillsTheBuffer
  intro s t hs hq hop hp hr h hend
  obtain ⟨hrun, w, hw, htrace⟩ := h.trace_of_read hs hr hp hq hop
  have hidx : t.idx = s.len := (hrun.inv.idx_eq (.inr hend)).trans hrun.len
  rw [hend, hidx] at hw
  exact ⟨fun a => h.read_buf_of_len_le hs hr hp, hidx, w, readTrace_of_transferTrace hop hw, htrace⟩

end Sys2Proof.Machine
end

section
/-! SUPPORT. A READ under listed answers of SR and DR (spec 44_op_read.md R140; 70_reset_and_hazards.md R195): the accesses that
move no byte bring a request with a length to its completion phase, and there every byte delivered is one more stored. -/

namespace Sys2Proof.Machine

open Sys2Proof

/-! ### Runs that move no byte -/

theorem Reaches.inv {s t : State} (h : Reaches s t) (hs : s.Inv) : t.Inv := by
  induction h with
  | refl => exact hs
  | step _ hstep ih => exact stepKeepsTheInvariant _ _ ih hstep

/-- Only the byte read uses up an answer of DR (R42, R48). -/
theorem State.served_drScript (s : State) :
    s.served.drScript = if s.seq = .rdPop then s.drScript.tail else s.drScript := by
  cases hq : s.seq <;> simp [State.served, hq, apply_ite State.drScript]

/-- A run from `s` to `t` that moves no byte of the payload. -/
structure MovesNoByte (s t : State) : Prop where
  reaches : Reaches s t
  resetIn : t.resetIn = s.resetIn
  d : t.d = s.d
  len : t.len = s.len
  idx : t.idx = s.idx
  buf : t.buf = s.buf
  drScript : t.drScript = s.drScript

theorem MovesNoByte.trans {s t u : State} (h : MovesNoByte s t) (h' : MovesNoByte t u) : MovesNoByte s u where
  reaches := h.reaches.trans h'.reaches
  resetIn := h'.resetIn.trans h.resetIn
  d := h'.d.trans h.d
  len := h'.len.trans h.len
  idx := h'.idx.trans h.idx
  buf := h'.buf.trans h.buf
  drScript := h'.drScript.trans h.drScript

section

variable {s : State} (hr : s.resetIn = false)

include hr

theorem MovesNoByte.served (hf : s.seq.inFlight = true) (hpop : s.seq ≠ .rdPop) (hpush : s.seq ≠ .wrPush) :
    MovesNoByte s s.served where
  reaches := .step .refl (by rw [step_eq_served hr hf, if_neg (by simp [hpop, hpush])])
  resetIn := s.served_resetIn
  d := s.served_d
  len := s.served_len
  idx := State.served_idx_of_ne hpop hpush
  buf := by rw [State.served_buf, if_neg hpop]
  drScript := by rw [State.served_drScript, if_neg hpop]

/-- A poll over listed answers (`Reaches.polled_of_script`) moves no byte. -/
theorem MovesNoByte.polled_of_script {waits rest : List Word} {last : Word} (hp : s.seq.polling = true)
    (hwaits : ∀ v ∈ waits, pollEnds s.params.sr s.seq v = false) (hlast : pollEnds s.params.sr s.seq last = true)
    (hscript : s.srScript = waits ++ last :: rest) :
    MovesNoByte s (s.polled waits.length) ∧ (s.polled waits.length).seq = pollNext s ∧
      (s.polled waits.length).srScript = rest := by
  obtain ⟨hreach, hseq, hrest⟩ := Reaches.polled_of_script hr hp hwaits hlast hscript
  exact ⟨⟨hreach, rfl, rfl, rfl, rfl, rfl, rfl⟩, hseq, hrest⟩

theorem MovesNoByte.configured (hq : s.seq = .cfgAbr) : MovesNoByte s s.configured := by
  have hccr := State.served_seq_of_cfgAbr hq
  have har := State.served_seq_of_cfgCcr hccr
  have h₁ : MovesNoByte s s.served := .served hr (by rw [hq]; rfl) (by simp [hq]) (by simp [hq])
  have h₂ : MovesNoByte s.served s.served.served :=
    .served (h₁.resetIn.trans hr) (by rw [hccr]; rfl) (by simp [hccr]) (by simp [hccr])
  have h₃ : MovesNoByte s.served.served s.configured :=
    .served (h₂.resetIn.trans (h₁.resetIn.trans hr)) (by rw [har]; rfl) (by simp [har]) (by simp [har])
  exact (h₁.trans h₂).trans h₃

/-- LENPROG of a request with a length (R117). -/
theorem MovesNoByte.lenprog (hq : s.seq = .lenprog) (hlen : s.len ≠ 0) :
    MovesNoByte s s.served ∧ s.served.seq = .cfgAbr ∧ s.served.srScript = s.srScript :=
  ⟨.served hr (by rw [hq]; rfl) (by simp [hq]) (by simp [hq]),
    by simp only [State.served, hq, if_neg hlen, State.configWrite_seq], by simp [State.served_srScript, hq, Seq.polling]⟩

/-- A request with a length is configured after its busy-wait (R116 to R121), with no read of SR but those. -/
theorem exists_configured_of_length {waits rest : List Word} {clear : Word} (hq : s.seq = .busywait)
    (hop : afterBusy s.d.op = .lenprog) (hlen : s.len ≠ 0) (hwaits : ∀ v ∈ waits, srBusy s.params.sr v = true)
    (hclear : srBusy s.params.sr clear = false) (hscript : s.srScript = waits ++ clear :: rest) :
    ∃ t, MovesNoByte s t ∧ t.seq = afterConfig s.d.op ∧ t.srScript = rest := by
  obtain ⟨hbusy, hseq, hrest⟩ := MovesNoByte.polled_of_script hr (by rw [hq]; rfl)
    (fun v hv => by simp [hq, hwaits v hv]) (by simp [hq, hclear]) hscript
  have hlenprog : (s.polled waits.length).seq = .lenprog := by rw [hseq, pollNext, hq, hop]
  obtain ⟨hdlr, hcfg, hrest'⟩ := MovesNoByte.lenprog (hbusy.resetIn.trans hr) hlenprog (by rwa [hbusy.len])
  have hready := hbusy.trans hdlr
  refine ⟨_, hready.trans (.configured (hready.resetIn.trans hr) hcfg), ?_, ?_⟩
  · rw [State.configured_seq hcfg, hready.d]
  · rw [State.configured_srScript hcfg, hrest', hrest]

end

/-! ### The bytes of a READ -/

/-- One byte delivered: any fruitless reads of SR, one that ends the poll, and the read of DR (R123, R124). -/
theorem exists_stored_of_script {s : State} {waits sr : List Word} {last : Word} {b : Byte} {dr : List Byte} (hs : s.Inv)
    (hr : s.resetIn = false) (hq : s.seq = .rdPoll) (hwaits : ∀ v ∈ waits, pollEnds s.params.sr .rdPoll v = false)
    (hlast : pollEnds s.params.sr .rdPoll last = true) (hsr : s.srScript = waits ++ last :: sr)
    (hdr : s.drScript = b :: dr) :
    ∃ t, Reaches s t ∧ t.resetIn = false ∧ t.len = s.len ∧ t.idx.toNat = s.idx.toNat + 1 ∧
      t.seq = (if t.idx = t.len then .dataComplete else .rdPoll) ∧
      bufBytes t.buf t.idx.toNat = bufBytes s.buf s.idx.toNat ++ [b] ∧ t.srScript = sr ∧ t.drScript = dr := by
  obtain ⟨hpoll, hseq, hrest⟩ := MovesNoByte.polled_of_script hr (by rw [hq]; rfl) (by rwa [hq]) (by rwa [hq]) hsr
  generalize s.polled waits.length = u at hpoll hseq hrest
  have hpop : u.seq = .rdPop := by rw [hseq, pollNext, hq]
  have hu : u.Inv := hpoll.reaches.inv hs
  have hru : u.resetIn = false := hpoll.resetIn.trans hr
  have hf : u.seq.inFlight = true := by rw [hpop]; rfl
  have hb : u.drAnswer = b := by simp [State.drAnswer, State.drAnswerAt, hpoll.drScript, hdr]
  obtain ⟨hidx, hbytes⟩ := bufBytes_served_of_rdPop hu hpop
  refine ⟨u.served, .step hpoll.reaches (hu.step_eq_served hru hf), u.served_resetIn.trans hru,
    u.served_len.trans hpoll.len, by rw [hidx, hpoll.idx], ?_, by rw [hbytes, hb, hpoll.buf, hpoll.idx], ?_, ?_⟩
  · rw [State.served_of_rdPop hpop]
    rfl
  · simp [State.served_srScript, hpop, Seq.polling, hrest]
  · simp [State.served_drScript, hpop, hpoll.drScript, hdr]

/-- The streaming of a READ: as many bytes delivered as are still to come, each after its poll (R123, R124). -/
theorem exists_dataComplete_of_script {groups : List (List Word × Word × Byte)} {l : Config.SrLayout} {sr : List Word}
    {dr : List Byte}
    (hpolls : ∀ g ∈ groups, (∀ v ∈ g.1, pollEnds l .rdPoll v = false) ∧ pollEnds l .rdPoll g.2.1 = true) {s : State}
    (hs : s.Inv) (hr : s.resetIn = false) (hl : s.params.sr = l)
    (hq : s.seq = if s.idx = s.len then .dataComplete else .rdPoll) (hlen : s.idx.toNat + groups.length = s.len.toNat)
    (hsr : s.srScript = groups.flatMap (fun g => g.1 ++ [g.2.1]) ++ sr)
    (hdr : s.drScript = groups.map (fun g => g.2.2) ++ dr) :
    ∃ t, Reaches s t ∧ t.seq = .dataComplete ∧
      bufBytes t.buf s.len.toNat = bufBytes s.buf s.idx.toNat ++ groups.map (fun g => g.2.2) := by
  induction groups generalizing s with
  | nil =>
    have hidx : s.idx = s.len := BitVec.eq_of_toNat_eq (by simpa using hlen)
    exact ⟨s, .refl, by rw [hq, if_pos hidx], by simp [hidx]⟩
  | cons g gs ih =>
    have hne : s.idx ≠ s.len := fun heq => by simp [heq] at hlen
    obtain ⟨⟨hwaits, hlast⟩, hpolls⟩ := List.forall_mem_cons.1 hpolls
    rw [← hl] at hwaits hlast
    obtain ⟨u, hreach, hru, hlenu, hidx, hqu, hbytes, hsru, hdru⟩ := exists_stored_of_script
      (sr := gs.flatMap (fun g => g.1 ++ [g.2.1]) ++ sr) hs hr (by rw [hq, if_neg hne]) hwaits hlast (by simp [hsr]) hdr
    obtain ⟨t, hreach', hend, hbytes'⟩ := ih hpolls (hreach.inv hs) hru (hreach.params ▸ hl) hqu
      (by rw [hlenu, ← hlen, hidx, List.length_cons]; omega) hsru hdru
    exact ⟨t, hreach.trans hreach', hend, by rw [← hlenu, hbytes', hbytes, List.append_assoc]; rfl⟩

/-- Settles O57: the request is configured with IDX still 0, and then the bytes are streamed. -/
theorem readReachesDataComplete : Obligations.ReadReachesDataComplete := by
  unfold Obligations.ReadReachesDataComplete
  intro s waits clear groups sr dr hs hr hq hop hlen hne hwaits hclear hgroups hsr hdr
  have hzero : s.idx = 0 := hs.idx_zero (by rw [hq]; rfl)
  have hpos : s.len ≠ 0 := fun h => hne (List.length_eq_zero_iff.1 (by simp [← hlen, h]))
  obtain ⟨u, hconf, hqu, hsru⟩ := exists_configured_of_length
    (rest := groups.flatMap (fun g => g.1 ++ [g.2.1]) ++ sr) hr hq (by rw [hop]; rfl) hpos hwaits hclear (by simp [hsr])
  have hidx : u.idx = 0 := hconf.idx.trans hzero
  have hpoll : u.seq = .rdPoll := by rw [hqu, hop, afterConfig]
  obtain ⟨t, hreach, hend, hbytes⟩ := exists_dataComplete_of_script (by simpa using hgroups)
    (hconf.reaches.inv hs) (hconf.resetIn.trans hr) (by rw [hconf.reaches.params])
    (by rw [hpoll, if_neg (by simpa [hidx, hconf.len] using hpos.symm)]) (by simp [hidx, hconf.len, hlen]) hsru
    (hconf.drScript.trans hdr)
  refine ⟨t, hconf.reaches.trans hreach, hend, ?_⟩
  rw [← hconf.len, hbytes, hidx]
  rfl

end Sys2Proof.Machine
end

section
/-! SUPPORT. The bytes of a WRITE (spec 45_op_write.md R146; 42_executor_sequencer.md R133; 20_memory.md R53): along its run the
accesses since BUSYWAIT was entered have the form that `SEQ` and the bytes sent so far fix, and these are the first IDX bytes of
BUF. -/

namespace Sys2Proof.Machine

open Sys2Proof

/-! ### The trace of a WRITE -/

/-- The accesses of a WRITE that has sent `bytes`, in each state of its run. -/
def writeRunTrace (p : Config.Params) (d : Latch) (len : Word) (bytes : List Byte) (q : Seq) (t : List Event) : Prop :=
  match q with
  | .wrPoll => transferTrace p d len (writeData p.sr bytes) (fruitless p.sr .wrPoll) t
  | .wrPush => transferTrace p d len (writeData p.sr bytes) (flagWait p.sr .wrPoll) t
  | .wrDrain => transferTrace p d len (writeData p.sr bytes) (fruitless p.sr .wrDrain) t
  | .dataComplete => transferTrace p d len (writeData p.sr bytes) (flagWait p.sr .wrDrain) t
  | q => headTrace p d len q t

section

variable {p : Config.Params} {d : Latch} {len : Word} {bytes : List Byte} {q : Seq} {t : List Event}

theorem writeRunTrace_of_headTrace (h : headTrace p d len q t) : writeRunTrace p d len [] q t := by
  cases q
  case wrPoll => exact transferTrace_of_configured h rfl (fruitless_nil _ _)
  case wrPush | wrDrain | dataComplete => exact h.elim
  all_goals exact h

theorem headTrace_of_writeRunTrace (hq : q.beforeData = true) (h : writeRunTrace p d len bytes q t) :
    headTrace p d len q t := by
  cases q
  case busywait | lenprog | cfgAbr | cfgCcr | cfgAr | faulted => exact h
  all_goals cases hq

theorem writeTrace_of_transferTrace (hop : d.op = .write)
    (h : transferTrace p d len (writeData p.sr bytes) (flagWait p.sr .wrDrain) t) : writeTrace p d len bytes t := by
  obtain ⟨_, data, wait, ⟨busy, hbusy, rfl⟩, hdata, hwait, rfl⟩ := h
  exact ⟨busy, data, wait, hbusy, hdata, hwait, by simp [lengthTrace, hop, configTrace]⟩

end

/-- The states in flight of a WRITE are those before the completion phase, WR_POLL, WR_PUSH and WR_DRAIN. -/
theorem Seq.beforeData_or_writing {q : Seq} (hf : q.inFlight = true) (hruns : q.runs .write = true) :
    q.beforeData = true ∨ q = .wrPoll ∨ q = .wrPush ∨ q = .wrDrain := by
  revert hf hruns
  cases q <;> decide

/-! ### The accesses of a WRITE, served -/

section

variable {s : State} {w : List Event}

/-- One poll iteration in the state `q`, in any description `T` of the run: the wait goes on, or it ends and `next` is entered
(R132, R134). -/
theorem transferTrace.polled {T : Seq → List Event → Prop} {q next : Seq} {data : List Event → Prop} (hq : s.seq = q)
    (h : transferTrace s.params s.d s.len data (fruitless s.params.sr q) w)
    (hstay : ∀ t, transferTrace s.params s.d s.len data (fruitless s.params.sr q) t → T q t)
    (hnext : ∀ t, transferTrace s.params s.d s.len data (flagWait s.params.sr q) t → T next t) :
    ∃ es, T (s.poll next).seq (w ++ es) ∧ (s.poll next).trace = s.trace ++ es := by
  refine ⟨[srRead s.srAnswer], ?_, rfl⟩
  rw [State.poll_seq, hq]
  cases hends : pollEnds s.params.sr q s.srAnswer with
  | true => exact hnext _ (h.poll fun _ hw => hw.flagWait hends)
  | false => exact hstay _ (h.poll fun _ hw => hw.snoc hends)

theorem State.served_of_wrPush (hq : s.seq = .wrPush) :
    s.served = (s.regWriteDr s.nextByte).advance .wrPoll .wrDrain := by
  simp [State.served, hq]

/-- The byte write of WR_PUSH moves `IDX` past the byte it sends, `BUF[IDX]` (R126). -/
theorem bufBytes_served_of_wrPush (hs : s.Inv) (hq : s.seq = .wrPush) :
    s.served.idx.toNat = s.idx.toNat + 1 ∧
      bufBytes s.served.buf s.served.idx.toNat = bufBytes s.buf s.idx.toNat ++ [s.nextByte] := by
  have hidx : s.served.idx.toNat = s.idx.toNat + 1 := by
    rw [State.served_of_wrPush hq]
    exact State.idx_succ_toNat (hs.idx_lt (by rw [hq]; rfl))
  refine ⟨hidx, ?_⟩
  rw [hidx, State.served_buf, if_neg (by simp [hq]), bufBytes_succ, State.nextByte]

theorem writeRunTrace_served (hs : s.Inv) (hf : s.seq.inFlight = true) (hop : s.d.op = .write)
    (h : writeRunTrace s.params s.d s.len (bufBytes s.buf s.idx.toNat) s.seq w) :
    ∃ es, writeRunTrace s.params s.d s.len (bufBytes s.served.buf s.served.idx.toNat) s.served.seq (w ++ es) ∧
      s.served.trace = s.trace ++ es := by
  rcases Seq.beforeData_or_writing hf (hop ▸ hs.seq_op) with hq | hq | hq | hq
  · obtain ⟨es, hes, htrace⟩ := headTrace_served hs hq (headTrace_of_writeRunTrace hq h)
    have hidx : s.served.idx = 0 := by
      obtain ⟨hpop, hpush⟩ := Seq.ne_byteStep_of_beforeData hq
      rw [State.served_idx_of_ne hpop hpush, hs.idx_zero hq]
    rw [hidx]
    exact ⟨es, writeRunTrace_of_headTrace hes, htrace⟩
  · rw [hq] at h
    have hserved : s.served = s.poll .wrPush := by simp [State.served, hq, pollNext]
    rw [hserved]
    exact transferTrace.polled hq h (fun _ => id) fun _ => id
  · rw [hq] at h
    obtain ⟨-, hbytes⟩ := bufBytes_served_of_wrPush hs hq
    rw [hbytes, State.served_of_wrPush hq, State.advance_seq]
    refine ⟨[.wr .dr (.byte s.nextByte)], ?_, rfl⟩
    split <;> exact transferTrace.byte h (fun _ _ => writeData_snoc) (fruitless_nil _ _)
  · rw [hq] at h
    have hserved : s.served = s.poll .dataComplete := by simp [State.served, hq, pollNext]
    rw [hserved]
    exact transferTrace.polled hq h (fun _ => id) fun _ => id

end

/-! ### The statement -/

/-- `writeRunTrace` along an undisturbed run of a WRITE from BUSYWAIT. -/
theorem Reaches.trace_of_write {s t : State} (hs : s.Inv) (hr : s.resetIn = false) (hp : s.port = []) (h : Reaches s t)
    (hq : s.seq = .busywait) (hop : s.d.op = .write) :
    Undisturbed s t ∧
      ∃ w, writeRunTrace s.params s.d s.len (bufBytes t.buf t.idx.toNat) t.seq w ∧ t.trace = s.trace ++ w := by
  refine Reaches.induction_served hs hr hp h (P := fun u => ∃ w, writeRunTrace s.params s.d s.len
    (bufBytes u.buf u.idx.toNat) u.seq w ∧ u.trace = s.trace ++ w) ⟨[], ?_, by simp⟩ ?_
  · rw [hq]
    exact fruitless_nil _ _
  · rintro u hu hf ⟨w, hw, htrace⟩
    rw [← hu.params, ← hu.d, ← hu.len] at hw ⊢
    obtain ⟨es, hes, htrace'⟩ := writeRunTrace_served hu.inv hf (hu.d ▸ hop) hw
    exact ⟨w ++ es, hes, by rw [htrace', htrace, List.append_assoc]⟩

/-- Settles O52: `writeRunTrace` along the run, read at DATA_COMPLETE, where IDX is LEN and BUF is that of the start. -/
theorem completedWriteSendsTheBuffer : Obligations.CompletedWriteSendsTheBuffer := by
  unfold Obligations.CompletedWriteSendsTheBuffer
  intro s t hs hq hop hp hr h hend
  obtain ⟨hrun, w, hw, htrace⟩ := h.trace_of_write hs hr hp hq hop
  have hidx : t.idx = s.len := (hrun.inv.idx_eq (.inr hend)).trans hrun.len
  have hbuf : t.buf = s.buf := Reaches.buf_of_not_read hs hr hp h (by simp [hop])
  rw [hend, hidx, hbuf] at hw
  exact ⟨hbuf, hidx, w, writeTrace_of_transferTrace hop hw, htrace⟩

end Sys2Proof.Machine
end

section
/-! SUPPORT. A WRITE under listed answers of SR (spec 45_op_write.md R145; 70_reset_and_hazards.md R195): a request with a length
comes to its completion phase, there every answer with FTF lets one byte more out, and the first with TCF ends the drain. -/

namespace Sys2Proof.Machine

open Sys2Proof

/-- One byte sent: any reads of SR without FTF, one with it, and the write of DR (R125, R126). -/
theorem exists_pushed_of_script {s : State} {waits sr : List Word} {last : Word} (hs : s.Inv) (hr : s.resetIn = false)
    (hq : s.seq = .wrPoll) (hwaits : ∀ v ∈ waits, srFtf s.params.sr v = false) (hlast : srFtf s.params.sr last = true)
    (hsr : s.srScript = waits ++ last :: sr) :
    ∃ t, Reaches s t ∧ t.resetIn = false ∧ t.len = s.len ∧ t.idx.toNat = s.idx.toNat + 1 ∧
      t.seq = (if t.idx = t.len then .wrDrain else .wrPoll) ∧ t.buf = s.buf ∧ t.srScript = sr := by
  obtain ⟨hpoll, hseq, hrest⟩ := MovesNoByte.polled_of_script hr (by rw [hq]; rfl) (by rwa [hq]) (by rwa [hq]) hsr
  generalize s.polled waits.length = u at hpoll hseq hrest
  have hpush : u.seq = .wrPush := by rw [hseq, pollNext, hq]
  have hu : u.Inv := hpoll.reaches.inv hs
  have hru : u.resetIn = false := hpoll.resetIn.trans hr
  have hf : u.seq.inFlight = true := by rw [hpush]; rfl
  obtain ⟨hidx, -⟩ := bufBytes_served_of_wrPush hu hpush
  refine ⟨u.served, .step hpoll.reaches (hu.step_eq_served hru hf), u.served_resetIn.trans hru,
    u.served_len.trans hpoll.len, by rw [hidx, hpoll.idx], ?_, ?_, ?_⟩
  · rw [State.served_of_wrPush hpush]
    rfl
  · rw [State.served_buf, if_neg (by simp [hpush]), hpoll.buf]
  · simp [State.served_srScript, hpush, Seq.polling, hrest]

/-- The streaming of a WRITE: as many answers with FTF as bytes are still to come, each after its poll (R125, R126). -/
theorem exists_wrDrain_of_script {groups : List (List Word × Word)} {l : Config.SrLayout} {sr : List Word}
    (hpolls : ∀ g ∈ groups, (∀ v ∈ g.1, srFtf l v = false) ∧ srFtf l g.2 = true) {s : State} (hs : s.Inv)
    (hr : s.resetIn = false) (hl : s.params.sr = l) (hq : s.seq = if s.idx = s.len then .wrDrain else .wrPoll)
    (hlen : s.idx.toNat + groups.length = s.len.toNat)
    (hsr : s.srScript = groups.flatMap (fun g => g.1 ++ [g.2]) ++ sr) :
    ∃ t, Reaches s t ∧ t.resetIn = false ∧ t.seq = .wrDrain ∧ t.buf = s.buf ∧ t.srScript = sr := by
  induction groups generalizing s with
  | nil =>
    have hidx : s.idx = s.len := BitVec.eq_of_toNat_eq (by simpa using hlen)
    exact ⟨s, .refl, hr, by rw [hq, if_pos hidx], rfl, hsr⟩
  | cons g gs ih =>
    have hne : s.idx ≠ s.len := fun heq => by simp [heq] at hlen
    obtain ⟨⟨hwaits, hlast⟩, hpolls⟩ := List.forall_mem_cons.1 hpolls
    rw [← hl] at hwaits hlast
    obtain ⟨u, hreach, hru, hlenu, hidx, hqu, hbuf, hsru⟩ := exists_pushed_of_script
      (sr := gs.flatMap (fun g => g.1 ++ [g.2]) ++ sr) hs hr (by rw [hq, if_neg hne]) hwaits hlast (by simp [hsr])
    obtain ⟨t, hreach', hrt, hend, hbuf', hsrt⟩ := ih hpolls (hreach.inv hs) hru (hreach.params ▸ hl) hqu
      (by rw [hlenu, ← hlen, hidx, List.length_cons]; omega) hsru
    exact ⟨t, hreach.trans hreach', hrt, hend, hbuf'.trans hbuf, hsrt⟩

/-- Settles O58: the request is configured with IDX still 0, then the bytes are streamed, and then the drain is waited for. -/
theorem writeReachesDataComplete : Obligations.WriteReachesDataComplete := by
  unfold Obligations.WriteReachesDataComplete
  intro s waits clear groups drain done sr hs hr hq hop hlen hne hwaits hclear hgroups hdrain hdone hsr
  have hzero : s.idx = 0 := hs.idx_zero (by rw [hq]; rfl)
  have hpos : s.len ≠ 0 := fun h => hne (List.length_eq_zero_iff.1 (by simp [← hlen, h]))
  obtain ⟨u, hconf, hqu, hsru⟩ := exists_configured_of_length
    (rest := groups.flatMap (fun g => g.1 ++ [g.2]) ++ (drain ++ done :: sr)) hr hq (by rw [hop]; rfl) hpos hwaits hclear
    (by simp [hsr])
  have hidx : u.idx = 0 := hconf.idx.trans hzero
  have hpoll : u.seq = .wrPoll := by rw [hqu, hop, afterConfig]
  obtain ⟨v, hstream, hrv, hqv, hbuf, hsrv⟩ := exists_wrDrain_of_script hgroups (hconf.reaches.inv hs)
    (hconf.resetIn.trans hr) (by rw [hconf.reaches.params])
    (by rw [hpoll, if_neg (by simpa [hidx, hconf.len] using hpos.symm)]) (by simp [hidx, hconf.len, hlen]) hsru
  have hreach : Reaches s v := hconf.reaches.trans hstream
  rw [← hreach.params] at hdrain hdone
  obtain ⟨hwait, hend, -⟩ := MovesNoByte.polled_of_script hrv (by rw [hqv]; rfl) (by rwa [hqv]) (by rwa [hqv]) hsrv
  exact ⟨_, hreach.trans hwait.reaches, by rw [hend, pollNext, hqv], hwait.buf.trans (hbuf.trans hconf.buf)⟩

end Sys2Proof.Machine
end

section
/-! SUPPORT. The run of a MAP (spec 46_op_mapped.md R151; 42_executor_sequencer.md R133): it has no completion phase, so
`headTrace` describes its accesses from BUSYWAIT to MAPPED_ACTIVE. -/

namespace Sys2Proof.Machine

open Sys2Proof

/-- The states in flight of a MAP are all before a completion phase, since it has none (R121, R151). -/
theorem Seq.beforeData_of_map {q : Seq} (hf : q.inFlight = true) (hruns : q.runs .map = true) : q.beforeData = true := by
  revert hf hruns
  cases q <;> decide

theorem mapTrace_of_configured {p : Config.Params} {d : Latch} {len : Word} {t : List Event} (hop : d.op = .map)
    (h : configuredTrace p d len 3 t) : mapTrace p d t := by
  obtain ⟨busy, hbusy, rfl⟩ := h
  exact ⟨busy, hbusy, by simp [lengthTrace, hop, configTrace]⟩

/-- Settles O53: `headTrace` along the run, read at MAPPED_ACTIVE. -/
theorem mappedRequestHasNoCompletionPoll : Obligations.MappedRequestHasNoCompletionPoll := by
  unfold Obligations.MappedRequestHasNoCompletionPoll
  intro s t hs hq hop hp hr h hend
  obtain ⟨w, hw, htrace⟩ := Reaches.trace_induction (T := headTrace s.params s.d s.len) hs hr hp h
    (by rw [hq]; exact fruitless_nil _ _) fun u w hu hf hw => by
      have hbefore : u.seq.beforeData = true := Seq.beforeData_of_map hf (hop ▸ hu.d ▸ hu.inv.seq_op)
      rw [← hu.params, ← hu.d, ← hu.len] at hw ⊢
      exact headTrace_served hu.inv hbefore hw
  rw [hend] at hw
  exact ⟨Reaches.buf_of_not_read hs hr hp h (by simp [hop]), w, mapTrace_of_configured hop hw, htrace⟩

end Sys2Proof.Machine
end

section
/-! SUPPORT. The one fault and reset (spec 60_exceptions.md R155, R156; 70_reset_and_hazards.md R173, R195): `FAULT` gets set by
the LENPROG step of a zero length alone, the run up to it is the busy-wait, and a poll ends with its first answer that ends
it. -/

namespace Sys2Proof.Machine

open Sys2Proof

/-! ### Reset -/

/-- Settles O38: the step is `State.applyReset`. -/
theorem resetPutsTheBlockInIdle : Obligations.ResetPutsTheBlockInIdle := by
  unfold Obligations.ResetPutsTheBlockInIdle
  exact fun s hr => ⟨Latch.reset, step_of_reset hr⟩

/-! ### The step that sets `FAULT` -/

/-- LENPROG of a request of length zero takes the fault (R117). -/
theorem step_of_zero_length {s : State} (hr : s.resetIn = false) (hq : s.seq = .lenprog) (hlen : s.len = 0) :
    step s = .next { s with fault := true, cause := 1, seq := .faulted } :=
  (step_inFlight hr (by rw [hq]; rfl)).trans ((lengthStepProgramsOrFaults s hq).1 hlen)

/-- Of the accesses only that of LENPROG, at length zero, sets `FAULT`. -/
theorem State.served_fault_iff (s : State) :
    s.served.fault = true ↔ s.fault = true ∨ s.seq = .lenprog ∧ s.len = 0 := by
  cases hq : s.seq
  case lenprog =>
    simp only [State.served, hq, true_and]
    split
    · next hlen => exact iff_of_true rfl (.inr hlen)
    · next hlen => exact (or_iff_left hlen).symm
  all_goals simp [State.served, hq]

/-- Without reset a step clears no `FAULT`, and sets it in LENPROG at length zero alone (R155). -/
theorem fault_iff_of_step {s t : State} (hr : s.resetIn = false) (h : step s = .next t) :
    t.fault = true ↔ s.fault = true ∨ s.seq = .lenprog ∧ s.len = 0 := by
  have hne (ha : s.seq.accepting = true) : ¬(s.seq = .lenprog ∧ s.len = 0) := fun hz => by
    rw [hz.1] at ha
    cases ha
  rcases step_cases h with ⟨hr', -⟩ | ⟨-, ha, -, rfl⟩ | ⟨-, ha, o, rest, i, hp, hd, -⟩ | ⟨-, hf, -⟩
  · simp [hr] at hr'
  · exact (or_iff_left (hne ha)).symm
  · obtain ⟨d, -, -, hstep⟩ := step_accepts hd
    rw [hstep s rest hr ha hp] at h
    cases h
    exact (or_iff_left (hne ha)).symm
  · obtain ⟨rfl, -⟩ := step_served_congr hf hr hr rfl rfl rfl h
    exact s.served_fault_iff

/-- Settles O41: with `FAULT` clear it gets set in LENPROG at length zero, and LENPROG is a state of a READ or a WRITE. -/
theorem faultComesOnlyFromAZeroLength : Obligations.FaultComesOnlyFromAZeroLength := by
  unfold Obligations.FaultComesOnlyFromAZeroLength
  intro s hs hr hclear
  have hzero {t : State} (h : step s = .next t) (ht : t.fault = true) : s.seq = .lenprog ∧ s.len = 0 :=
    ((fault_iff_of_step hr h).1 ht).resolve_left (by simp [hclear])
  refine ⟨⟨fun ⟨t, h, ht⟩ => hzero h ht, fun ⟨hq, hlen⟩ => ⟨_, step_of_zero_length hr hq hlen, rfl⟩⟩,
    fun t h ht => ?_⟩
  obtain ⟨hq, hlen⟩ := hzero h ht
  rw [step_of_zero_length hr hq hlen] at h
  cases h
  exact ⟨by simpa [hq, Seq.runs] using hs.seq_op, rfl⟩

/-! ### The run up to the fault -/

/-- The sequencer states in which no register has been written yet (R133). -/
def Seq.beforeWrites (q : Seq) : Prop := q = .busywait ∨ q = .lenprog ∨ q = .faulted

theorem Seq.beforeWrites.beforeData {q : Seq} (h : q.beforeWrites) : q.beforeData = true := by
  rcases h with rfl | rfl | rfl <;> rfl

/-- A READ or a WRITE of length zero stays in those states, and its accesses write nothing. -/
theorem State.served_of_zero_length {s : State} (hlen : s.len = 0) (hop : s.d.op = .read ∨ s.d.op = .write)
    (hq : s.seq.beforeWrites) : s.served.seq.beforeWrites ∧ s.served.buf = s.buf ∧ s.served.periph = s.periph := by
  rcases hq with hq | hq | hq
  · have hnext : pollNext s = .lenprog := by rw [pollNext, hq, afterBusy_eq, if_pos hop]
    have hserved : s.served = s.poll .lenprog := by simp [State.served, hq, hnext]
    refine ⟨?_, by rw [hserved]; rfl, by rw [hserved]; rfl⟩
    rw [hserved, State.poll_seq]
    split
    · exact .inr (.inl rfl)
    · exact .inl hq
  · have hserved : s.served = s.takeFault causeZeroLength := by simp [State.served, hq, hlen]
    rw [hserved]
    exact ⟨.inr (.inr rfl), rfl, rfl⟩
  · have hserved : s.served = s := by simp [State.served, hq]
    rw [hserved]
    exact ⟨.inr (.inr hq), rfl, rfl⟩

section

variable {s t : State} (hs : s.Inv) (hr : s.resetIn = false) (hp : s.port = []) (h : Reaches s t)

include hs hr hp h

theorem Reaches.undisturbed : Undisturbed s t :=
  (Reaches.induction_served hs hr hp h (P := fun _ => True) trivial fun _ _ _ _ => trivial).1

section

variable (hq : s.seq = .busywait) (hlen : s.len = 0) (hop : s.d.op = .read ∨ s.d.op = .write)

include hq hlen hop

/-- Wherever the run of a READ or a WRITE of length zero stands, BUF and the peripheral are as before (R156). -/
theorem Reaches.frame_of_zero_length : t.buf = s.buf ∧ t.periph = s.periph := by
  refine (Reaches.induction_served hs hr hp h
    (P := fun u => u.seq.beforeWrites ∧ u.buf = s.buf ∧ u.periph = s.periph) ⟨.inl hq, rfl, rfl⟩ ?_).2.2
  rintro u hu - ⟨hseq, hbuf, hperiph⟩
  obtain ⟨hseq', hbuf', hperiph'⟩ := State.served_of_zero_length (hu.len.trans hlen) (hu.d ▸ hop) hseq
  exact ⟨hseq', hbuf'.trans hbuf, hperiph'.trans hperiph⟩

/-- Its trace is that of the states it passes through (R133). -/
theorem Reaches.headTrace_of_zero_length : ∃ w, headTrace s.params s.d s.len t.seq w ∧ t.trace = s.trace ++ w := by
  obtain ⟨w, ⟨-, hw⟩, htrace⟩ := Reaches.trace_induction hs hr hp h
    (T := fun q w => q.beforeWrites ∧ headTrace s.params s.d s.len q w)
    ⟨.inl hq, by rw [hq]; exact fruitless_nil _ _⟩ fun u w hu _ ⟨hseq, hw⟩ => by
      rw [← hu.params, ← hu.d, ← hu.len] at hw ⊢
      obtain ⟨es, hes, htrace⟩ := headTrace_served hu.inv hseq.beforeData hw
      exact ⟨es, ⟨(State.served_of_zero_length (hu.len.trans hlen) (hu.d ▸ hop) hseq).1, hes⟩, htrace⟩
  exact ⟨w, hw, htrace⟩

end

end

/-- Settles O54: what reaches FAULTED is a READ or a WRITE of length zero, and `headTrace` there is the busy-wait. -/
theorem zeroLengthRequestWritesNothing : Obligations.ZeroLengthRequestWritesNothing := by
  unfold Obligations.ZeroLengthRequestWritesNothing
  intro s t hs hq hp hr h hend
  have ht := Reaches.undisturbed hs hr hp h
  have hlen : s.len = 0 := ht.len ▸ ht.inv.fault_len hend
  have hop : s.d.op = .read ∨ s.d.op = .write := by simpa [hend, Seq.runs, ht.d] using ht.inv.seq_op
  obtain ⟨hbuf, hperiph⟩ := Reaches.frame_of_zero_length hs hr hp h hq hlen hop
  obtain ⟨w, hw, htrace⟩ := Reaches.headTrace_of_zero_length hs hr hp h hq hlen hop
  rw [hend] at hw
  exact ⟨hlen, hbuf, hperiph, w, hw, htrace⟩

/-! ### A poll under its liveness premise -/

/-- Under its liveness premise a poll ends with the first answer that ends it (R195). -/
theorem State.Live.exists_first {s : State} {q : Seq} (h : s.Live q) :
    ∃ k, pollEnds s.params.sr q (s.srAnswerAt k) = true ∧
      ∀ n < k, pollEnds s.params.sr q (s.srAnswerAt n) = false :=
  ⟨Nat.find h, Nat.find_spec h, fun _ hn => Bool.eq_false_iff.2 (Nat.find_min h hn)⟩

/-- The accesses of a poll are one flag-wait (R133, R134). -/
theorem State.exists_flagWait_of_polled {s : State} {k : Nat} (hends : pollEnds s.params.sr s.seq (s.srAnswerAt k) = true)
    (hwait : ∀ n < k, pollEnds s.params.sr s.seq (s.srAnswerAt n) = false) :
    ∃ w, flagWait s.params.sr s.seq w ∧ (s.polled k).trace = s.trace ++ w := by
  refine ⟨_, ⟨(List.range k).map s.srAnswerAt, s.srAnswerAt k, ?_, hends, rfl⟩, ?_⟩
  · simpa using hwait
  · rw [State.polled, State.poll_trace, State.srAnswer_waited]
    simp [State.waited, srRead]

/-- Settles O55: the state after the first answer that ends the poll. -/
theorem pollEndsUnderItsLivenessPremise : Obligations.PollEndsUnderItsLivenessPremise := by
  unfold Obligations.PollEndsUnderItsLivenessPremise
  intro s hr hp hlive
  obtain ⟨k, hends, hwait⟩ := hlive.exists_first
  exact ⟨s.polled k, .polled hr hp hwait, State.polled_seq hends, rfl, rfl, rfl, rfl, rfl, rfl,
    State.exists_flagWait_of_polled hends hwait⟩

end Sys2Proof.Machine
end
